-- ==== Sys2Proof/Word.lean ====
section
/-! DEFINITION. The word types of the core (00_scope.md R5, R6): all quantities are unsigned. -/

namespace Sys2Proof

/-- XLEN = 8 (R5): a general register, a timer, a memory location. -/
abbrev Byte := BitVec 8

/-- ALEN = ILEN = 16 (R5): an instruction word, `pc`, `I`, a stack entry. -/
abbrev Word := BitVec 16

/-- The twelve-bit address field `nnn` of an instruction (R81). -/
abbrev Addr := BitVec 12

/-- The number of a general register, `x` or `y` of an instruction: NREG = 16 (R5, R20). -/
abbrev Reg := Fin 16

end Sys2Proof
end

