-- ==== Sys2Proof/Config.lean ====
section
/-! DEFINITION. The parameters of the hardware that 00_scope.md R5 leaves a choice, and the one free value (the random byte).
The value that this hardware takes for each parameter is in Machine/Params.lean. -/

namespace Sys2Proof

/-- DECODE_ALIASES (R5, R87): how words decode that match an instruction's (family, sub-selector) pair but not its pattern. -/
inductive DecodeAliases where
  /-- the decode of R83 read literally: an alias word executes the instruction -/
  | familySubselector
  /-- an alias word is unrecognized, a no-op -/
  | exact
deriving DecidableEq, Repr

/-- SHIFT_SOURCE (R5, R150): the register whose value `8xy6` and `8xyE` shift. -/
inductive ShiftSource where
  | vx
  | vy
deriving DecidableEq, Repr

/-- DRAW_EDGE (R5, R193): what becomes of sprite pixels past the right or bottom edge. -/
inductive DrawEdge where
  | clip
  | wrap
deriving DecidableEq, Repr

/-- The parameters of R5 that have more than one legal value. -/
structure Config where
  /-- DECODE_ALIASES (D2). -/
  decodeAliases : DecodeAliases
  /-- SHIFT_SOURCE (D4). -/
  shiftSource : ShiftSource
  /-- SUB_EQUAL_FLAG (D5): `VF` after `8xy5` or `8xy7` with equal operands. -/
  subEqualFlag : Bool
  /-- SPRITE_MSB_LEFT (D7): bit 7 of a sprite byte is the leftmost pixel. -/
  spriteMsbLeft : Bool
  /-- DRAW_EDGE (D10). -/
  drawEdge : DrawEdge
  /-- FONT (D8): the 80 glyph bytes of R52, in address order. -/
  font : List Byte
deriving DecidableEq, Repr

/-- FREE VALUE (R30, R153, D15; log 2): the byte that the generator yields at its `k`-th draw. It has no body: nothing
constrains it, and nothing can be proved of it but what holds of every byte. -/
opaque Config.drawByte : Nat → Byte

end Sys2Proof
end

