-- ==== Sys2Proof/Machine/Params.lean ====
section
/-! DEFINITION. The value this hardware takes for each parameter (00_scope.md R5). Machine code reads a parameter only from
`Machine.config`, so another choice changes this file alone. -/

namespace Sys2Proof.Machine

/-- Glyphs 0 to 7 of R52 (D8, PRESUMED from the family: log 11). -/
def fontLow : List Byte :=
  [0xF0#8, 0x90#8, 0x90#8, 0x90#8, 0xF0#8] ++ [0x20#8, 0x60#8, 0x20#8, 0x20#8, 0x70#8] ++
  [0xF0#8, 0x10#8, 0xF0#8, 0x80#8, 0xF0#8] ++ [0xF0#8, 0x10#8, 0xF0#8, 0x10#8, 0xF0#8] ++
  [0x90#8, 0x90#8, 0xF0#8, 0x10#8, 0x10#8] ++ [0xF0#8, 0x80#8, 0xF0#8, 0x10#8, 0xF0#8] ++
  [0xF0#8, 0x80#8, 0xF0#8, 0x90#8, 0xF0#8] ++ [0xF0#8, 0x10#8, 0x20#8, 0x40#8, 0x40#8]

/-- Glyphs 8 to F of R52 (D8, PRESUMED from the family: log 11). -/
def fontHigh : List Byte :=
  [0xF0#8, 0x90#8, 0xF0#8, 0x90#8, 0xF0#8] ++ [0xF0#8, 0x90#8, 0xF0#8, 0x10#8, 0xF0#8] ++
  [0xF0#8, 0x90#8, 0xF0#8, 0x90#8, 0x90#8] ++ [0xE0#8, 0x90#8, 0xE0#8, 0x90#8, 0xE0#8] ++
  [0xF0#8, 0x80#8, 0x80#8, 0x80#8, 0xF0#8] ++ [0xE0#8, 0x90#8, 0x90#8, 0x90#8, 0xE0#8] ++
  [0xF0#8, 0x80#8, 0xF0#8, 0x80#8, 0xF0#8] ++ [0xF0#8, 0x80#8, 0xF0#8, 0x80#8, 0x80#8]

/-- The configuration of this hardware: the "value" column of R5. -/
def config : Config where
  decodeAliases := .familySubselector  -- D2, UNVERIFIED (the spec's decision): log 6
  shiftSource := .vx                   -- D4, UNVERIFIED (the spec's decision): log 7
  subEqualFlag := true                 -- D5, UNVERIFIED (the spec's decision): log 8
  spriteMsbLeft := true                -- D7, PRESUMED (the family's convention): log 10
  drawEdge := .clip                    -- D10, mandated by R193: log 13
  font := fontLow ++ fontHigh          -- D8, PRESUMED (the family's font): log 11

end Sys2Proof.Machine
end

