-- ==== Sys2Proof/Syntax.lean ====
section
/-! DEFINITION. The instructions: one constructor for each of the 34 rows of spec/opcode_table.json, in the table's order
(30_encoding.md R85). A word that selects no row is no instruction: Decode.lean answers none for it and the step executes the
no-op of 40_step_cycle.md R105 (log 16). -/

namespace Sys2Proof

/-- An instruction with its operand fields (R81): `x`, `y` register numbers, `kk` an immediate byte, `nnn` an address,
`n` the row count of a sprite (0..15: WellFormed.lean). -/
inductive Instr where
  /-- `00E0` CLS (R190). -/
  | cls
  /-- `00EE` RET (R120). -/
  | ret
  /-- `1nnn` JP (R121). -/
  | jp (nnn : Addr)
  /-- `2nnn` CALL (R122). -/
  | call (nnn : Addr)
  /-- `3xkk` SE_IMM (R123). -/
  | seImm (x : Reg) (kk : Byte)
  /-- `4xkk` SNE_IMM (R124). -/
  | sneImm (x : Reg) (kk : Byte)
  /-- `5xy0` SE_REG (R125). -/
  | seReg (x y : Reg)
  /-- `6xkk` LD_IMM (R142). -/
  | ldImm (x : Reg) (kk : Byte)
  /-- `7xkk` ADD_IMM (R143). -/
  | addImm (x : Reg) (kk : Byte)
  /-- `8xy0` LD_REG (R144). -/
  | ldReg (x y : Reg)
  /-- `8xy1` OR (R145). -/
  | or (x y : Reg)
  /-- `8xy2` AND (R146). -/
  | and (x y : Reg)
  /-- `8xy3` XOR (R147). -/
  | xor (x y : Reg)
  /-- `8xy4` ADD_REG (R148). -/
  | addReg (x y : Reg)
  /-- `8xy5` SUB (R149). -/
  | sub (x y : Reg)
  /-- `8xy6` SHR (R150); `y` is in the word and unused while SHIFT_SOURCE is `Vx`. -/
  | shr (x y : Reg)
  /-- `8xy7` SUBN (R151). -/
  | subn (x y : Reg)
  /-- `8xyE` SHL (R152); `y` as in `shr`. -/
  | shl (x y : Reg)
  /-- `9xy0` SNE_REG (R126). -/
  | sneReg (x y : Reg)
  /-- `Annn` LD_I (R170). -/
  | ldI (nnn : Addr)
  /-- `Bnnn` JP_V0 (R127). -/
  | jpV0 (nnn : Addr)
  /-- `Cxkk` RND (R153). -/
  | rnd (x : Reg) (kk : Byte)
  /-- `Dxyn` DRW (R191). -/
  | drw (x y : Reg) (n : Nat)
  /-- `Ex9E` SKP (R210). -/
  | skp (x : Reg)
  /-- `ExA1` SKNP (R211). -/
  | sknp (x : Reg)
  /-- `Fx07` LD_VX_DT (R212). -/
  | ldVxDt (x : Reg)
  /-- `Fx0A` LD_VX_K (R213). -/
  | ldVxK (x : Reg)
  /-- `Fx15` LD_DT_VX (R214). -/
  | ldDtVx (x : Reg)
  /-- `Fx18` LD_ST_VX (R215). -/
  | ldStVx (x : Reg)
  /-- `Fx1E` ADD_I (R171). -/
  | addI (x : Reg)
  /-- `Fx29` LD_F (R172). -/
  | ldF (x : Reg)
  /-- `Fx33` LD_B (R173). -/
  | ldB (x : Reg)
  /-- `Fx55` ST_REGS (R174); `x` is a count: `V[0]..V[x]`. -/
  | stRegs (x : Reg)
  /-- `Fx65` LD_REGS (R175); `x` is a count: `V[0]..V[x]`. -/
  | ldRegs (x : Reg)
deriving DecidableEq, Repr

end Sys2Proof
end

