-- ==== Sys2Proof/Decode.lean ====
section
/-! DEFINITION. The decoder (30_encoding.md R81, R83, R87), total on every word and every list of bytes; after it the encoder
and the opcode map of R85 as data. -/

namespace Sys2Proof

/-! ### Fields of the word (R81) -/

/-- `fam = ir[15:12]`. -/
def fieldFam (w : Word) : BitVec 4 := w.extractLsb' 12 4
/-- `x = ir[11:8]`. -/
def fieldX (w : Word) : Reg := (w.extractLsb' 8 4).toFin
/-- `y = ir[7:4]`. -/
def fieldY (w : Word) : Reg := (w.extractLsb' 4 4).toFin
/-- `n = ir[3:0]`. -/
def fieldN (w : Word) : BitVec 4 := w.extractLsb' 0 4
/-- `kk = ir[7:0]`. -/
def fieldKK (w : Word) : Byte := w.extractLsb' 0 8
/-- `nnn = ir[11:0]`. -/
def fieldNNN (w : Word) : Addr := w.extractLsb' 0 12

/-- Big-endian combination of the two bytes of an instruction (R53): the byte at the lower address is the high one. -/
def wordOfBytes (hi lo : Byte) : Word := hi ++ lo

/-! ### The decode procedure (R83) -/

/-- Family 0: the low nibble selects. -/
def decodeFamily0 (w : Word) : Option Instr :=
  match fieldN w with
  | 0x0#4 => some .cls
  | 0xE#4 => some .ret
  | _ => none

/-- Family 8: the low nibble selects. -/
def decodeFamily8 (w : Word) : Option Instr :=
  match fieldN w with
  | 0x0#4 => some (.ldReg (fieldX w) (fieldY w))
  | 0x1#4 => some (.or (fieldX w) (fieldY w))
  | 0x2#4 => some (.and (fieldX w) (fieldY w))
  | 0x3#4 => some (.xor (fieldX w) (fieldY w))
  | 0x4#4 => some (.addReg (fieldX w) (fieldY w))
  | 0x5#4 => some (.sub (fieldX w) (fieldY w))
  | 0x6#4 => some (.shr (fieldX w) (fieldY w))
  | 0x7#4 => some (.subn (fieldX w) (fieldY w))
  | 0xE#4 => some (.shl (fieldX w) (fieldY w))
  | _ => none

/-- Family E: the low nibble selects. -/
def decodeFamilyE (w : Word) : Option Instr :=
  match fieldN w with
  | 0xE#4 => some (.skp (fieldX w))
  | 0x1#4 => some (.sknp (fieldX w))
  | _ => none

/-- Family F: the low byte selects. -/
def decodeFamilyF (w : Word) : Option Instr :=
  match fieldKK w with
  | 0x07#8 => some (.ldVxDt (fieldX w))
  | 0x0A#8 => some (.ldVxK (fieldX w))
  | 0x15#8 => some (.ldDtVx (fieldX w))
  | 0x18#8 => some (.ldStVx (fieldX w))
  | 0x1E#8 => some (.addI (fieldX w))
  | 0x29#8 => some (.ldF (fieldX w))
  | 0x33#8 => some (.ldB (fieldX w))
  | 0x55#8 => some (.stRegs (fieldX w))
  | 0x65#8 => some (.ldRegs (fieldX w))
  | _ => none

/-- The instruction matched by (family, sub-selector), or none for an unrecognized word (R83, R86). -/
def decodeBySelector (w : Word) : Option Instr :=
  match fieldFam w with
  | 0x0#4 => decodeFamily0 w
  | 0x1#4 => some (.jp (fieldNNN w))
  | 0x2#4 => some (.call (fieldNNN w))
  | 0x3#4 => some (.seImm (fieldX w) (fieldKK w))
  | 0x4#4 => some (.sneImm (fieldX w) (fieldKK w))
  | 0x5#4 => some (.seReg (fieldX w) (fieldY w))
  | 0x6#4 => some (.ldImm (fieldX w) (fieldKK w))
  | 0x7#4 => some (.addImm (fieldX w) (fieldKK w))
  | 0x8#4 => decodeFamily8 w
  | 0x9#4 => some (.sneReg (fieldX w) (fieldY w))
  | 0xA#4 => some (.ldI (fieldNNN w))
  | 0xB#4 => some (.jpV0 (fieldNNN w))
  | 0xC#4 => some (.rnd (fieldX w) (fieldKK w))
  | 0xD#4 => some (.drw (fieldX w) (fieldY w) (fieldN w).toNat)
  | 0xE#4 => decodeFamilyE w
  | 0xF#4 => decodeFamilyF w
  | _ => none  -- the sixteen families above are all there are: this arm is never reached

/-! ### The encoder and the opcode map (R82, R85) -/

/-- Format A: `fam nnn`. -/
def formatA (fam : BitVec 4) (nnn : Addr) : Word := fam ++ nnn
/-- Formats XK, XE and XF: `fam x kk`, the low byte an immediate or a sub-selector. -/
def formatXK (fam : BitVec 4) (x : Reg) (kk : Byte) : Word := fam ++ (BitVec.ofFin x : BitVec 4) ++ kk
/-- Formats XY and XYN: `fam x y n`. -/
def formatXY (fam : BitVec 4) (x y : Reg) (n : BitVec 4) : Word :=
  fam ++ (BitVec.ofFin x : BitVec 4) ++ (BitVec.ofFin y : BitVec 4) ++ n

/-- The canonical word of an instruction (R85, R89). -/
def encode : Instr → Word
  | .cls => 0x00E0#16
  | .ret => 0x00EE#16
  | .jp nnn => formatA 0x1#4 nnn
  | .call nnn => formatA 0x2#4 nnn
  | .seImm x kk => formatXK 0x3#4 x kk
  | .sneImm x kk => formatXK 0x4#4 x kk
  | .seReg x y => formatXY 0x5#4 x y 0x0#4
  | .ldImm x kk => formatXK 0x6#4 x kk
  | .addImm x kk => formatXK 0x7#4 x kk
  | .ldReg x y => formatXY 0x8#4 x y 0x0#4
  | .or x y => formatXY 0x8#4 x y 0x1#4
  | .and x y => formatXY 0x8#4 x y 0x2#4
  | .xor x y => formatXY 0x8#4 x y 0x3#4
  | .addReg x y => formatXY 0x8#4 x y 0x4#4
  | .sub x y => formatXY 0x8#4 x y 0x5#4
  | .shr x y => formatXY 0x8#4 x y 0x6#4
  | .subn x y => formatXY 0x8#4 x y 0x7#4
  | .shl x y => formatXY 0x8#4 x y 0xE#4
  | .sneReg x y => formatXY 0x9#4 x y 0x0#4
  | .ldI nnn => formatA 0xA#4 nnn
  | .jpV0 nnn => formatA 0xB#4 nnn
  | .rnd x kk => formatXK 0xC#4 x kk
  | .drw x y n => formatXY 0xD#4 x y (BitVec.ofNat 4 n)
  | .skp x => formatXK 0xE#4 x 0x9E#8
  | .sknp x => formatXK 0xE#4 x 0xA1#8
  | .ldVxDt x => formatXK 0xF#4 x 0x07#8
  | .ldVxK x => formatXK 0xF#4 x 0x0A#8
  | .ldDtVx x => formatXK 0xF#4 x 0x15#8
  | .ldStVx x => formatXK 0xF#4 x 0x18#8
  | .addI x => formatXK 0xF#4 x 0x1E#8
  | .ldF x => formatXK 0xF#4 x 0x29#8
  | .ldB x => formatXK 0xF#4 x 0x33#8
  | .stRegs x => formatXK 0xF#4 x 0x55#8
  | .ldRegs x => formatXK 0xF#4 x 0x65#8

/-- The match and mask of R85: the words that the decode of R83 sends to the instruction's handler. -/
def selectMatchMask : Instr → Word × Word
  | .cls => (0x0000#16, 0xF00F#16)
  | .ret => (0x000E#16, 0xF00F#16)
  | .jp _ => (0x1000#16, 0xF000#16)
  | .call _ => (0x2000#16, 0xF000#16)
  | .seImm _ _ => (0x3000#16, 0xF000#16)
  | .sneImm _ _ => (0x4000#16, 0xF000#16)
  | .seReg _ _ => (0x5000#16, 0xF000#16)
  | .ldImm _ _ => (0x6000#16, 0xF000#16)
  | .addImm _ _ => (0x7000#16, 0xF000#16)
  | .ldReg _ _ => (0x8000#16, 0xF00F#16)
  | .or _ _ => (0x8001#16, 0xF00F#16)
  | .and _ _ => (0x8002#16, 0xF00F#16)
  | .xor _ _ => (0x8003#16, 0xF00F#16)
  | .addReg _ _ => (0x8004#16, 0xF00F#16)
  | .sub _ _ => (0x8005#16, 0xF00F#16)
  | .shr _ _ => (0x8006#16, 0xF00F#16)
  | .subn _ _ => (0x8007#16, 0xF00F#16)
  | .shl _ _ => (0x800E#16, 0xF00F#16)
  | .sneReg _ _ => (0x9000#16, 0xF000#16)
  | .ldI _ => (0xA000#16, 0xF000#16)
  | .jpV0 _ => (0xB000#16, 0xF000#16)
  | .rnd _ _ => (0xC000#16, 0xF000#16)
  | .drw _ _ _ => (0xD000#16, 0xF000#16)
  | .skp _ => (0xE00E#16, 0xF00F#16)
  | .sknp _ => (0xE001#16, 0xF00F#16)
  | .ldVxDt _ => (0xF007#16, 0xF0FF#16)
  | .ldVxK _ => (0xF00A#16, 0xF0FF#16)
  | .ldDtVx _ => (0xF015#16, 0xF0FF#16)
  | .ldStVx _ => (0xF018#16, 0xF0FF#16)
  | .addI _ => (0xF01E#16, 0xF0FF#16)
  | .ldF _ => (0xF029#16, 0xF0FF#16)
  | .ldB _ => (0xF033#16, 0xF0FF#16)
  | .stRegs _ => (0xF055#16, 0xF0FF#16)
  | .ldRegs _ => (0xF065#16, 0xF0FF#16)

/-- The canonical match and mask of R85: the words that match the pattern digit for digit. They differ from
`selectMatchMask` for the six instructions of R87 only. -/
def canonicalMatchMask : Instr → Word × Word
  | .cls => (0x00E0#16, 0xFFFF#16)
  | .ret => (0x00EE#16, 0xFFFF#16)
  | .seReg _ _ => (0x5000#16, 0xF00F#16)
  | .sneReg _ _ => (0x9000#16, 0xF00F#16)
  | .skp _ => (0xE09E#16, 0xF0FF#16)
  | .sknp _ => (0xE0A1#16, 0xF0FF#16)
  | i => selectMatchMask i

/-! ### The decoder -/

/-- A word is an alias of the instruction it decodes to when it does not match the instruction's pattern (R87). -/
def isAlias (w : Word) (i : Instr) : Bool := w &&& (canonicalMatchMask i).2 != (canonicalMatchMask i).1

/-- Decoding under a given DECODE_ALIASES (R87): under `exact` an alias word is unrecognized. -/
def decodeUnder (aliases : DecodeAliases) (w : Word) : Option Instr :=
  match aliases with
  | .familySubselector => decodeBySelector w
  | .exact => (decodeBySelector w).filter (fun i => !isAlias w i)

/-- The instruction that a fetched word is on this hardware (R83, R103, R104), or none for an unrecognized word. -/
def decode (w : Word) : Option Instr := decodeUnder Machine.config.decodeAliases w

/-- Why a list of bytes holds no instruction. -/
inductive NoInstr where
  /-- fewer than the two bytes of an instruction (R80); never met by the step, whose fetch reads both -/
  | truncated
  /-- a word that selects no row of R85 (R86): the step executes it as the no-op of R105 -/
  | unrecognized (w : Word)
deriving DecidableEq, Repr

/-- Decoding from bytes in address order: the instruction and the bytes after its two, or the reason why there is none. -/
def decodeBytes : List Byte → Except NoInstr (Instr × List Byte)
  | hi :: lo :: rest =>
    match decode (wordOfBytes hi lo) with
    | some i => .ok (i, rest)
    | none => .error (.unrecognized (wordOfBytes hi lo))
  | _ => .error .truncated

/-- The instruction's bytes in address order, high byte first (R53, R80). -/
def bytesOfWord (w : Word) : List Byte := [w.extractLsb' 8 8, w.extractLsb' 0 8]

/-- The word numbered as spec/opcode_table.json numbers it, of which the lowest `nbits` bits are given and the rest are 0. -/
def tableWord (nbits w : Nat) : Word := BitVec.ofNat 16 (w % 2 ^ nbits)

/-- What the decoder reads from an instruction whose bits are `w`, laid out in memory as the hardware stores it. -/
def decodeTableWord (nbits w : Nat) : Option Instr :=
  match decodeBytes (bytesOfWord (tableWord nbits w)) with
  | .ok (i, _) => some i
  | .error _ => none

end Sys2Proof
end

