-- ==== Sys2Proof/Machine/State.lean ====
section
/-! DEFINITION. The state of the core (10_state.md R20 to R34), the reasons a step can stop, and the state after reset. -/

namespace Sys2Proof.Machine

/-- The faults that `step()` can raise (60_exceptions.md R230 to R233). All are fatal: the step has no successor state
(R239), which is safe. -/
inductive Fault where
  /-- Raised by the fetch (R101) and by DRW, LD_B, ST_REGS and LD_REGS (R231) when an address above 4095 would be read or
  written; safe, the spec's own fault. -/
  | addressOutOfRange
  /-- Raised by CALL with `sp = 16` and by nothing else (R232); safe, the spec's own fault. -/
  | stackOverflow
  /-- Raised by RET with `sp = 0` and by nothing else (R233); safe, the spec's own fault. -/
  | stackUnderflow
deriving DecidableEq, Repr

/-- The reasons for which the model gives an instruction no meaning. No arm of `exec` uses one: every instruction has its
meaning. -/
inductive Refusal where
  /-- Raised by an arm of `exec` whose instruction has no meaning yet; safe. No arm does so now. -/
  | notModelled (mnemonic : String)
deriving DecidableEq, Repr

/-- Memory (R28) as the list of the bytes that differ from their reset content, in rising order of address (log 17). -/
abbrev Memory := List Host.Cell

/-- The framebuffer (R27): 32 rows from the top, each of 64 pixels from the left, true = on. -/
abbrev Framebuffer := Vector (Vector Bool 64) 32

/-- Everything the spec gives the core (the summary table of 10_state.md), and the key inputs of the step to come. -/
structure State where
  /-- `V[0..15]` (R20); `V[15]` is `VF` (R21). -/
  v : Vector Byte 16
  /-- The index register `I` (R22). -/
  i : Word
  /-- The program counter (R23). -/
  pc : Word
  /-- `stack[0..15]` (R24). -/
  stack : Vector Word 16
  /-- The number of stack entries in use, 0 to 16 (R24). -/
  sp : Fin 17
  /-- The delay timer `DT` (R25). -/
  dt : Byte
  /-- The sound timer `ST` (R25). -/
  st : Byte
  /-- `key[0..15]` as the host holds them now, true = pressed (R26): the sample of the next step. The core only reads it. -/
  keys : Vector Bool 16
  /-- The framebuffer (R27). -/
  fb : Framebuffer
  /-- Memory (R28). -/
  mem : Memory
  /-- The model's own field: how many random bytes have been drawn (R30, log 2). -/
  draws : Nat
  /-- The fault latch (R31). -/
  fault : Option Fault
deriving DecidableEq, Repr

/-- The state after reset (R34, R260): all zero but `pc = 0x200` and the font, which is what unlisted memory holds. -/
def State.reset : State where
  v := Vector.replicate 16 0#8
  i := 0#16
  pc := 0x200#16
  stack := Vector.replicate 16 0#16
  sp := 0
  dt := 0#8
  st := 0#8
  keys := Vector.replicate 16 false
  fb := Vector.replicate 32 (Vector.replicate 64 false)
  mem := []
  draws := 0
  fault := none

end Sys2Proof.Machine
end

