-- ==== Sys2Proof/Machine/Ops.lean ====
section
/-! DEFINITION. The named operations over memory, registers, stack, framebuffer and timers, and raising a fault. -/

namespace Sys2Proof.Machine

/-- What a handler or a step answers. -/
abbrev Result := Host.Outcome State Fault Refusal

/-! ### Raising a fault -/

/-- `raise <Fault>` (R7, R238, R239): the step ends with the fault's kind and no successor state; there is no vector, no saved
register and no handler. There is no return from a fault (R241): only the host's reset (HostPort.lean) recovers. -/
def raise (k : Fault) : Result := .fault k

/-! ### Memory (20_memory.md) -/

/-- What a byte holds that nothing has written since reset (R34, R51): the font at 0x050..0x09F, else zero. -/
def Memory.resetByte (a : Nat) : Byte :=
  if 0x050 ≤ a ∧ a ≤ 0x09F then config.font.getD (a - 0x050) 0#8 else 0#8

/-- The byte at an address (R58). -/
def Memory.read : Memory → Nat → Byte
  | [], a => Memory.resetByte a
  | (k, b) :: rest, a => if k = a then b else Memory.read rest a

/-- A cell put in its place among cells of other addresses. -/
def Memory.insert (a : Nat) (b : Byte) : Memory → Memory
  | [] => [(a, b)]
  | (k, c) :: rest => if a < k then (a, b) :: (k, c) :: rest else (k, c) :: Memory.insert a b rest

/-- Store one byte (R58), keeping the canonical form: a byte equal to the reset content is not listed. -/
def Memory.write (m : Memory) (a : Nat) (b : Byte) : Memory :=
  if b = Memory.resetByte a then m.filter (fun c => c.1 != a)
  else Memory.insert a b (m.filter (fun c => c.1 != a))

/-- The canonical form: addresses of the 4096 bytes, strictly rising, and no entry equal to its reset content. -/
abbrev Memory.wf (m : Memory) : Prop :=
  m.Pairwise (fun c d => c.1 < d.1) ∧ ∀ c ∈ m, c.1 < 4096 ∧ c.2 ≠ Memory.resetByte c.1

/-- Read `n` bytes at ascending addresses (R54). -/
def Memory.readBytes (m : Memory) : Nat → Nat → List Byte
  | _, 0 => []
  | a, n + 1 => m.read a :: Memory.readBytes m (a + 1) n

/-- Store bytes at ascending addresses (R54). -/
def Memory.writeBytes (m : Memory) : Nat → List Byte → Memory
  | _, [] => m
  | a, b :: bs => Memory.writeBytes (m.write a b) (a + 1) bs

/-- The check of R56 and R57 over the `n` bytes from `a`, with addresses as unbounded numbers: their last is at most 4095.
No byte is addressed when `n = 0`. -/
def inRange (a n : Nat) : Bool := n == 0 || decide (a + n - 1 ≤ 4095)

/-- A new memory (R28). -/
def State.setMem (s : State) (m : Memory) : State := { s with mem := m }

/-- Read the `n` bytes from `a`, or raise AddressOutOfRange when one lies above 4095 (R56, R57). -/
def State.readRange (s : State) (a n : Nat) : Except Fault (List Byte) :=
  if inRange a n then .ok (s.mem.readBytes a n) else .error .addressOutOfRange

/-- Write the bytes from `a` upward, or raise AddressOutOfRange when one lies above 4095 (R56, R57). -/
def State.writeRange (s : State) (a : Nat) (bs : List Byte) : Except Fault State :=
  if inRange a bs.length then .ok (s.setMem (s.mem.writeBytes a bs)) else .error .addressOutOfRange

/-- The primitive `MemRead(a, 1)` of R65. -/
def State.memRead (s : State) (a : Nat) : Except Fault Byte :=
  if a > 4095 then .error .addressOutOfRange else .ok (s.mem.read a)

/-! ### General registers (R20, R21) -/

/-- `VF`, general register 15 (R21). -/
abbrev VF : Reg := 15

/-- `V[r]`. -/
def State.reg (s : State) (r : Reg) : Byte := s.v[r.val]

/-- `V[r] <- b`; no register is hardwired (R20). -/
def State.setReg (s : State) (r : Reg) (b : Byte) : State := { s with v := s.v.set r.val b }

/-- `V[0]` to `V[x]` in ascending order: what ST_REGS stores (R174). -/
def State.regsUpTo (s : State) (x : Reg) : List Byte := s.v.toList.take (x.val + 1)

/-- Fill registers from number `k` upward. -/
def fillRegs : Vector Byte 16 → Nat → List Byte → Vector Byte 16
  | v, _, [] => v
  | v, k, b :: bs => fillRegs (v.setIfInBounds k b) (k + 1) bs

/-- `V[0]` upward from the bytes, in ascending order: what LD_REGS writes (R175). -/
def State.loadRegs (s : State) (bs : List Byte) : State := { s with v := fillRegs s.v 0 bs }

/-! ### `I`, `pc`, the timers and the other fields -/

/-- `I <- w` (R22). -/
def State.setI (s : State) (w : Word) : State := { s with i := w }

/-- `pc <- w` (R23). -/
def State.setPc (s : State) (w : Word) : State := { s with pc := w }

/-- `pc <- (pc + 2) mod 65536`: the advance of R102, and a skip taken during execution (R80). -/
def State.advancePc (s : State) : State := s.setPc (s.pc + 2#16)

/-- `pc <- (pc - 2) mod 65536`: replay of the present instruction (R213). -/
def State.replayPc (s : State) : State := s.setPc (s.pc - 2#16)

/-- `DT <- b` (R25). -/
def State.setDt (s : State) (b : Byte) : State := { s with dt := b }

/-- `ST <- b` (R25). -/
def State.setSt (s : State) (b : Byte) : State := { s with st := b }

/-- A new framebuffer (R27). -/
def State.setFb (s : State) (f : Framebuffer) : State := { s with fb := f }

/-- `draw_byte()` (R7, R30, R153): the free byte of this draw, and the state in which it has been drawn (log 2). -/
def State.drawByte (s : State) : Byte × State := (Config.drawByte s.draws, { s with draws := s.draws + 1 })

/-! ### The call stack (R24) -/

/-- Push a return address, or raise StackOverflow when 16 entries are in use (R122, R232). -/
def State.push (s : State) (w : Word) : Except Fault State :=
  if h : s.sp.val < 16 then
    .ok { s with stack := s.stack.set s.sp.val w, sp := ⟨s.sp.val + 1, by omega⟩ }
  else .error .stackOverflow

/-- Pop a return address, or raise StackUnderflow when none is in use (R120, R233); the popped entry keeps its value (R24). -/
def State.pop (s : State) : Except Fault (Word × State) :=
  if h : 0 < s.sp.val then
    .ok (s.stack[s.sp.val - 1]'(by omega), { s with sp := ⟨s.sp.val - 1, by omega⟩ })
  else .error .stackUnderflow

/-! ### Pixels (R27) -/

/-- `fb[x,y]`; false off the screen. -/
def Framebuffer.pixel (f : Framebuffer) (x y : Nat) : Bool :=
  if h : x < 64 ∧ y < 32 then (f[y]'h.2)[x]'h.1 else false

/-- `fb[x,y] <- fb[x,y] ^ 1`. -/
def Framebuffer.toggle (f : Framebuffer) (x y : Nat) : Framebuffer :=
  if h : x < 64 ∧ y < 32 then f.set y ((f[y]'h.2).set x (!(f[y]'h.2)[x]'h.1) h.1) h.2 else f

/-- All pixels off. -/
def Framebuffer.blank : Framebuffer := Vector.replicate 32 (Vector.replicate 64 false)

/-! ### Keys (R26) -/

/-- `key[k]`. -/
def State.key (s : State) (k : Fin 16) : Bool := s.keys[k.val]

/-- The least `k` with `key[k] = 1`, if any (R213). -/
def State.leastKey (s : State) : Option Nat := s.keys.toList.findIdx? (fun b => b)

/-! ### Timers (R106) -/

/-- One count down, clamped at 0. -/
def tick (b : Byte) : Byte := if b = 0#8 then 0#8 else b - 1#8

/-- The timer phase: each nonzero timer is decremented by one, independently (R106). -/
def State.tickTimers (s : State) : State := (s.setDt (tick s.dt)).setSt (tick s.st)

end Sys2Proof.Machine
end

