-- ==== Sys2Proof/Machine/Cycle.lean ====
section
/-! DEFINITION. The phases of the step around the handler (40_step_cycle.md R100): latch check, fetch, advance, timers; and
the no-op that an unrecognized word executes. Step.lean puts them together. -/

namespace Sys2Proof.Machine

/-- Fetch (R101): the big-endian word at `pc`, `pc + 1`, addresses as unbounded numbers, or AddressOutOfRange. -/
def State.fetch (s : State) : Except Fault Word :=
  if s.pc.toNat + 1 > 4095 then .error .addressOutOfRange
  else
    match s.memRead s.pc.toNat, s.memRead (s.pc.toNat + 1) with
    | .ok hi, .ok lo => .ok (wordOfBytes hi lo)
    | .error k, _ => .error k
    | _, .error k => .error k

/-- The no-op of an unrecognized word (R105). -/
def execUnrecognized (s : State) : Result := .next s

/-- The end of a step: the timer phase after a handler that completed (R106); a fault ends the step without it (R239). -/
def finishStep : Result → Result
  | .next t => .next t.tickTimers
  | .fault k => raise k
  | .refused r => .refused r

/-- A state whose next step fetches the word: the word at `pc`, `pc + 1`. A step also needs the latch clear (R108) and `pc`
below 4095 (R101), so a latch is cleared and a `pc` from which nothing can be fetched becomes the program base 0x200. -/
def State.placeWord (s : State) (w : Word) : State :=
  let pc := if s.pc.toNat < 4095 then s.pc else 0x200#16
  { s with pc := pc, fault := none, mem := s.mem.writeBytes pc.toNat (bytesOfWord w) }

end Sys2Proof.Machine
end

