-- ==== Sys2Proof/Machine/Operands.lean ====
section
/-! DEFINITION. The operand forms of the instructions (30_encoding.md R84): what each field stands for when it is used. -/

namespace Sys2Proof.Machine

/-- `zext_16(nnn)`: an absolute address, not scaled and not relative to `pc` (R84). -/
def absAddr (nnn : Addr) : Word := nnn.setWidth 16

/-- `zext_16(V[r])`. -/
def State.regWide (s : State) (r : Reg) : Word := (s.reg r).setWidth 16

/-- The base address `I` as an unbounded number (R56). -/
def State.base (s : State) : Nat := s.i.toNat

/-- The value that `8xy6` and `8xyE` shift, by SHIFT_SOURCE (R150, D4). -/
def State.shiftOperand (s : State) (x y : Reg) : Byte :=
  match config.shiftSource with
  | .vx => s.reg x
  | .vy => s.reg y

/-- The key number of `Ex9E` and `ExA1`: `V[x] & 0x0F` (R210). -/
def State.keyOperand (s : State) (x : Reg) : Fin 16 := ((s.reg x).setWidth 4).toFin

/-- The column of a sprite's origin, `V[x] mod 64` (R192). -/
def State.originX (s : State) (x : Reg) : Nat := (s.reg x).toNat % 64

/-- The row of a sprite's origin, `V[y] mod 32` (R192). -/
def State.originY (s : State) (y : Reg) : Nat := (s.reg y).toNat % 32

/-- The glyph address of `Fx29`: `0x050 + 5 * zext_16(V[x])`, not masked (R172, D17). -/
def State.glyphAddr (s : State) (x : Reg) : Word := 0x050#16 + 5#16 * s.regWide x

/-- The three decimal digits of `Fx33`, most significant first (R173). -/
def decimalDigits (v : Byte) : List Byte :=
  [BitVec.ofNat 8 (v.toNat / 100), BitVec.ofNat 8 (v.toNat / 10 % 10), BitVec.ofNat 8 (v.toNat % 10)]

end Sys2Proof.Machine
end

