-- ==== Sys2Proof/Machine/Flags.lean ====
section
/-! DEFINITION. The flag computations of the six instructions that write `VF` (10_state.md R21, 42_alu.md R141). Each is a
function of the operands read before anything is written. -/

namespace Sys2Proof.Machine

/-- A flag as a register value, 0 or 1 (R141). -/
def flagByte (f : Bool) : Byte := if f then 1#8 else 0#8

/-- The carry out of bit 7 of `a + b`: the sum is above 255 (R148). -/
def carryOut (a b : Byte) : Bool := decide (a.toNat + b.toNat > 255)

/-- NOT borrow of `a - b`; with equal operands SUB_EQUAL_FLAG (R149, R151, D5). -/
def notBorrow (a b : Byte) : Bool := if a = b then config.subEqualFlag else decide (a.toNat > b.toNat)

/-- The bit that a shift right drops, the old bit 0 (R150). -/
def shiftedOutRight (a : Byte) : Bool := a.getLsbD 0

/-- The bit that a shift left drops, the old bit 7 (R152). -/
def shiftedOutLeft (a : Byte) : Bool := a.getLsbD 7

/-- Write the result to `V[x]`, then the flag to `VF`, in this order (R141): with `x = 15` the flag survives. -/
def State.writeResultFlag (s : State) (x : Reg) (result : Byte) (flag : Bool) : State :=
  (s.setReg x result).setReg VF (flagByte flag)

end Sys2Proof.Machine
end

