-- ==== Sys2Proof/Machine/Display.lean ====
section
/-! DEFINITION. The framebuffer write controller (44_display.md). -/

namespace Sys2Proof.Machine

/-- Where a sprite coordinate falls on an axis of `limit` pixels: nowhere when it is past the edge and clipped (R193). -/
def placeOnAxis (edge : DrawEdge) (limit c : Nat) : Option Nat :=
  match edge with
  | .clip => if c < limit then some c else none
  | .wrap => some (c % limit)

/-- The sprite bit of column `col`, 0 the leftmost of 8 (R195). -/
def spriteBit (msbLeft : Bool) (b : Byte) (col : Nat) : Bool :=
  if msbLeft then b.getLsbD (7 - col) else b.getLsbD col

/-- A drawing under way: the framebuffer, and whether a pixel has gone from on to off. -/
abbrev Drawing := Framebuffer × Bool

/-- One sprite bit of a row that lies at screen row `py` (the inner loop's body in R191). -/
def drawBit (x0 py : Nat) (b : Byte) (d : Drawing) (col : Nat) : Drawing :=
  match placeOnAxis config.drawEdge 64 (x0 + col) with
  | some px =>
    if spriteBit config.spriteMsbLeft b col then (d.1.toggle px py, d.2 || d.1.pixel px py) else d
  | none => d

/-- One sprite row of 8 bits at screen row `py` (the inner loop of R191). -/
def drawRow (x0 py : Nat) (b : Byte) (d : Drawing) : Drawing := (List.range 8).foldl (drawBit x0 py b) d

/-- The sprite rows from screen row `y` downward (the outer loop of R191). -/
def drawRows (x0 : Nat) : Nat → List Byte → Drawing → Drawing
  | _, [], d => d
  | y, b :: bs, d =>
    drawRows x0 (y + 1) bs
      (match placeOnAxis config.drawEdge 32 y with
      | some py => drawRow x0 py b d
      | none => d)

/-- CLS (R190). -/
def execCls (s : State) : Result := .next (s.setFb Framebuffer.blank)

/-- DRW Vx, Vy, n (R191): both coordinates are read first and `VF` is written last (R196). -/
def execDrw (x y : Reg) (n : Nat) (s : State) : Result :=
  match s.readRange s.base n with
  | .ok rows =>
    let d := drawRows (s.originX x) (s.originY y) rows (s.fb, false)
    .next ((s.setFb d.1).setReg VF (flagByte d.2))
  | .error k => raise k

end Sys2Proof.Machine
end

