-- ==== Sys2Proof/Machine/Flow.lean ====
section
/-! DEFINITION. The program counter and call-stack sequencer (41_flow.md). `pc` already holds the fetch address plus 2. -/

namespace Sys2Proof.Machine

/-- The next state of a conditional skip: `pc + 2` more when the condition holds (R80, R123). -/
def State.skipIf (s : State) (c : Bool) : State := if c then s.advancePc else s

/-- RET (R120). -/
def execRet (s : State) : Result :=
  match s.pop with
  | .ok (target, t) => .next (t.setPc target)
  | .error k => raise k

/-- JP nnn (R121). -/
def execJp (nnn : Addr) (s : State) : Result := .next (s.setPc (absAddr nnn))

/-- CALL nnn (R122): the value pushed is the advanced `pc`. -/
def execCall (nnn : Addr) (s : State) : Result :=
  match s.push s.pc with
  | .ok t => .next (t.setPc (absAddr nnn))
  | .error k => raise k

/-- SE Vx, kk (R123). -/
def execSeImm (x : Reg) (kk : Byte) (s : State) : Result := .next (s.skipIf (s.reg x == kk))

/-- SNE Vx, kk (R124). -/
def execSneImm (x : Reg) (kk : Byte) (s : State) : Result := .next (s.skipIf (s.reg x != kk))

/-- SE Vx, Vy (R125). -/
def execSeReg (x y : Reg) (s : State) : Result := .next (s.skipIf (s.reg x == s.reg y))

/-- SNE Vx, Vy (R126). -/
def execSneReg (x y : Reg) (s : State) : Result := .next (s.skipIf (s.reg x != s.reg y))

/-- JP V0, nnn (R127): the sum is not masked to 12 bits. -/
def execJpV0 (nnn : Addr) (s : State) : Result := .next (s.setPc (s.regWide 0 + absAddr nnn))

end Sys2Proof.Machine
end

