-- ==== Sys2Proof/Machine/IndexMemory.lean ====
section
/-! DEFINITION. The index register and memory instructions (43_index_memory.md). None changes `I` by loading or storing. -/

namespace Sys2Proof.Machine

/-- LD I, nnn (R170). -/
def execLdI (nnn : Addr) (s : State) : Result := .next (s.setI (absAddr nnn))

/-- ADD I, Vx (R171): modulo 65536, no flag. -/
def execAddI (x : Reg) (s : State) : Result := .next (s.setI (s.i + s.regWide x))

/-- LD F, Vx (R172). -/
def execLdF (x : Reg) (s : State) : Result := .next (s.setI (s.glyphAddr x))

/-- LD B, Vx (R173). -/
def execLdB (x : Reg) (s : State) : Result :=
  match s.writeRange s.base (decimalDigits (s.reg x)) with
  | .ok t => .next t
  | .error k => raise k

/-- LD [I], Vx (R174). -/
def execStRegs (x : Reg) (s : State) : Result :=
  match s.writeRange s.base (s.regsUpTo x) with
  | .ok t => .next t
  | .error k => raise k

/-- LD Vx, [I] (R175). -/
def execLdRegs (x : Reg) (s : State) : Result :=
  match s.readRange s.base (x.val + 1) with
  | .ok bs => .next (s.loadRegs bs)
  | .error k => raise k

end Sys2Proof.Machine
end

