-- ==== Sys2Proof/Machine/KeypadTimers.lean ====
section
/-! DEFINITION. The key-input and timer instructions (45_keypad_timers.md). The countdown itself is the step's last phase. -/

namespace Sys2Proof.Machine

/-- SKP Vx (R210). -/
def execSkp (x : Reg) (s : State) : Result := .next (s.skipIf (s.key (s.keyOperand x)))

/-- SKNP Vx (R211). -/
def execSknp (x : Reg) (s : State) : Result := .next (s.skipIf (!s.key (s.keyOperand x)))

/-- LD Vx, DT (R212). -/
def execLdVxDt (x : Reg) (s : State) : Result := .next (s.setReg x s.dt)

/-- LD Vx, K (R213): the least pressed key, or the instruction again in the next step. -/
def execLdVxK (x : Reg) (s : State) : Result :=
  match s.leastKey with
  | some k => .next (s.setReg x (BitVec.ofNat 8 k))
  | none => .next s.replayPc

/-- LD DT, Vx (R214). -/
def execLdDtVx (x : Reg) (s : State) : Result := .next (s.setDt (s.reg x))

/-- LD ST, Vx (R215). -/
def execLdStVx (x : Reg) (s : State) : Result := .next (s.setSt (s.reg x))

end Sys2Proof.Machine
end

