-- ==== Sys2Proof/Machine/Step.lean ====
section
/-! DEFINITION. One `step()` (40_step_cycle.md R100). -/

namespace Sys2Proof.Machine

/-- The five phases of R100, after the latch check of R108: fetch, advance, decode, execute, timers. -/
def step (s : State) : Host.Outcome State Fault Refusal :=
  match s.fault with
  | some k => raise k
  | none =>
    match s.fetch with
    | .error k => raise k
    | .ok w =>
      match Sys2Proof.decode w with
      | some i => finishStep (exec i s.advancePc)
      | none => finishStep (execUnrecognized s.advancePc)

/-- `s` with the instruction of bits `w` (as the opcode table numbers them) where the next step fetches (log 24). -/
def State.withFetchWord (s : State) (nbits w : Nat) : State := s.placeWord (Sys2Proof.tableWord nbits w)

end Sys2Proof.Machine
end

