-- ==== Sys2Proof/Machine/HostPort.lean ====
section
/-! DEFINITION. The host's side (20_memory.md R66, 60_exceptions.md R245, R250, 70_reset_and_hazards.md R260): the moves it may
make between two steps and what it may read. -/

namespace Sys2Proof.Machine

/-- What `load` answers (R66, R234). -/
inductive LoadResult where
  | ok (s : State)
  /-- the image is longer than 3584 bytes; the state is unchanged -/
  | imageTooLarge
deriving DecidableEq, Repr

/-- `load(bytes)` (R66): the bytes go to 0x200 upward and nothing else changes, the latch included (D23). -/
def State.load (s : State) (bytes : List Byte) : LoadResult :=
  if bytes.length > 3584 then .imageTooLarge else .ok (s.setMem (s.mem.writeBytes 0x200 bytes))

/-- The host sets the key inputs (R26, R250). -/
def State.setKeys (s : State) (k : Vector Bool 16) : State := { s with keys := k }

/-- Reset (R260): the state of R34. The draws go on where they were: two runs share no random byte (R262, log 3). -/
def State.hostReset (s : State) : State := { State.reset with draws := s.draws }

/-- The launch state of a program (R264): reset, then load. -/
def launch (bytes : List Byte) : LoadResult := State.reset.load bytes

/-- The port `tone` (R245): `ST != 0`. -/
def State.tone (s : State) : Bool := s.st != 0#8

/-- The port `status` (R245): the latched fault, none while the core runs. -/
def State.status (s : State) : Option Fault := s.fault

/-- The port `fb` (R245). -/
def State.pixelOn (s : State) (x y : Nat) : Bool := s.fb.pixel x y

/-- A move of the host (R35, R250). -/
inductive HostMove where
  | reset
  | load (bytes : List Byte)
  | setKeys (k : Vector Bool 16)
  | step
deriving DecidableEq, Repr

/-- One move of the host and the state after it. After a step that faults only the kind and the latch are defined (R239,
R240): every other field may hold anything, but that the memory list keeps its form and the keys are the host's. -/
inductive HostTrans : State → HostMove → State → Prop where
  | reset (s : State) : HostTrans s .reset s.hostReset
  | load (s : State) (bytes : List Byte) (t : State) (h : s.load bytes = .ok t) : HostTrans s (.load bytes) t
  | loadTooLarge (s : State) (bytes : List Byte) (h : s.load bytes = .imageTooLarge) : HostTrans s (.load bytes) s
  | setKeys (s : State) (k : Vector Bool 16) : HostTrans s (.setKeys k) (s.setKeys k)
  | stepNext (s t : State) (h : step s = .next t) : HostTrans s .step t
  | stepFaults (s t : State) (k : Fault) (running : s.fault = none) (h : step s = .fault k) (latched : t.fault = some k)
      (form : t.mem.wf) (keys : t.keys = s.keys) : HostTrans s .step t
  | stepLatched (s : State) (k : Fault) (h : s.fault = some k) : HostTrans s .step s

end Sys2Proof.Machine
end

