-- ==== Sys2Proof/Safety.lean ====
section
/-! DEFINITION. The terms in which claims are stated: the instruction a step will run, what an instruction may change (its
frame), and the invariant of the running core. -/

namespace Sys2Proof.Safety

open Sys2Proof.Machine

/-- The word at `pc` (R53), whether or not a fetch would reach it. -/
def wordAtPc (s : State) : Word := wordOfBytes (s.mem.read s.pc.toNat) (s.mem.read (s.pc.toNat + 1))

/-- The instruction that the bytes at `pc` decode to, if any. -/
def instrAtPc (s : State) : Option Instr := decode (wordAtPc s)

/-- A step will fetch: no fault is latched (R108) and both bytes at `pc` exist (R101). -/
abbrev CanFetch (s : State) : Prop := s.fault = none ∧ s.pc.toNat ≤ 4094

/-- What may change; what is not named may not. `memLen` bytes from `memBase` are the bytes stored to. -/
structure Writes where
  regs : List Reg := []
  i : Bool := false
  pc : Bool := false
  stack : Bool := false
  dt : Bool := false
  st : Bool := false
  fb : Bool := false
  memBase : Nat := 0
  memLen : Nat := 0
  draws : Bool := false

/-- From `s` to `t` nothing changed but what `w` names. The keys and the fault latch are never an instruction's to change
(R26, R32); every byte of memory outside the stored ones reads as before. -/
def Frame (w : Writes) (s t : State) : Prop :=
  (∀ r, r ∉ w.regs → t.reg r = s.reg r) ∧
  (w.i = false → t.i = s.i) ∧
  (w.pc = false → t.pc = s.pc) ∧
  (w.stack = false → t.stack = s.stack ∧ t.sp = s.sp) ∧
  (w.dt = false → t.dt = s.dt) ∧
  (w.st = false → t.st = s.st) ∧
  (w.fb = false → t.fb = s.fb) ∧
  (∀ a, a < w.memBase ∨ w.memBase + w.memLen ≤ a → t.mem.read a = s.mem.read a) ∧
  (w.draws = false → t.draws = s.draws) ∧
  t.keys = s.keys ∧
  t.fault = s.fault

/-- The invariant of the core: memory keeps its canonical form, and while no fault is latched `pc` is at most 4350 (R128) and
every stack entry at most 4096 (R122). -/
abbrev Inv (s : State) : Prop :=
  s.mem.wf ∧ (s.fault = none → s.pc.toNat ≤ 4350 ∧ ∀ k : Fin 16, (s.stack[k.val]).toNat ≤ 4096)

end Sys2Proof.Safety
end

