-- ==== Sys2Proof/Certificates/Slice0/Obligations.lean ====
section
/-! DEFINITION. The statements for the provers. `exec` is stated on the state a handler sees, `pc` already advanced (R102);
`StepRunsDecodedInstruction` carries them to `step`. -/

namespace Sys2Proof.Certificates

open Sys2Proof.Machine

/-- A row of the opcode map of R85: a word selects it iff `w & mask == sel`; `instr` reads the operands by arithmetic on the
word as a number, with no bit slice of the decoder. -/
structure OpcodeRow where
  sel : Nat
  mask : Nat
  instr : Nat → Instr

/-- `x`: the second nibble of the word (R81). -/
def xOf (w : Nat) : Reg := ⟨w / 256 % 16, Nat.mod_lt _ (by omega)⟩
/-- `y`: the third nibble (R81). -/
def yOf (w : Nat) : Reg := ⟨w / 16 % 16, Nat.mod_lt _ (by omega)⟩
/-- `kk`: the low byte (R81). -/
def kkOf (w : Nat) : Byte := BitVec.ofNat 8 (w % 256)
/-- `nnn`: the low 12 bits (R81). -/
def nnnOf (w : Nat) : Addr := BitVec.ofNat 12 (w % 4096)

/-- Rows 1 to 9 of R85. -/
def rowsFlow : List OpcodeRow :=
  [⟨0x0000, 0xF00F, fun _ => .cls⟩, ⟨0x000E, 0xF00F, fun _ => .ret⟩, ⟨0x1000, 0xF000, fun w => .jp (nnnOf w)⟩,
   ⟨0x2000, 0xF000, fun w => .call (nnnOf w)⟩, ⟨0x3000, 0xF000, fun w => .seImm (xOf w) (kkOf w)⟩,
   ⟨0x4000, 0xF000, fun w => .sneImm (xOf w) (kkOf w)⟩, ⟨0x5000, 0xF000, fun w => .seReg (xOf w) (yOf w)⟩,
   ⟨0x6000, 0xF000, fun w => .ldImm (xOf w) (kkOf w)⟩, ⟨0x7000, 0xF000, fun w => .addImm (xOf w) (kkOf w)⟩]

/-- Rows 10 to 18 of R85. -/
def rowsAlu : List OpcodeRow :=
  [⟨0x8000, 0xF00F, fun w => .ldReg (xOf w) (yOf w)⟩, ⟨0x8001, 0xF00F, fun w => .or (xOf w) (yOf w)⟩,
   ⟨0x8002, 0xF00F, fun w => .and (xOf w) (yOf w)⟩, ⟨0x8003, 0xF00F, fun w => .xor (xOf w) (yOf w)⟩,
   ⟨0x8004, 0xF00F, fun w => .addReg (xOf w) (yOf w)⟩, ⟨0x8005, 0xF00F, fun w => .sub (xOf w) (yOf w)⟩,
   ⟨0x8006, 0xF00F, fun w => .shr (xOf w) (yOf w)⟩, ⟨0x8007, 0xF00F, fun w => .subn (xOf w) (yOf w)⟩,
   ⟨0x800E, 0xF00F, fun w => .shl (xOf w) (yOf w)⟩]

/-- Rows 19 to 25 of R85. -/
def rowsIndex : List OpcodeRow :=
  [⟨0x9000, 0xF000, fun w => .sneReg (xOf w) (yOf w)⟩, ⟨0xA000, 0xF000, fun w => .ldI (nnnOf w)⟩,
   ⟨0xB000, 0xF000, fun w => .jpV0 (nnnOf w)⟩, ⟨0xC000, 0xF000, fun w => .rnd (xOf w) (kkOf w)⟩,
   ⟨0xD000, 0xF000, fun w => .drw (xOf w) (yOf w) (w % 16)⟩, ⟨0xE00E, 0xF00F, fun w => .skp (xOf w)⟩,
   ⟨0xE001, 0xF00F, fun w => .sknp (xOf w)⟩]

/-- Rows 26 to 34 of R85. -/
def rowsMisc : List OpcodeRow :=
  [⟨0xF007, 0xF0FF, fun w => .ldVxDt (xOf w)⟩, ⟨0xF00A, 0xF0FF, fun w => .ldVxK (xOf w)⟩,
   ⟨0xF015, 0xF0FF, fun w => .ldDtVx (xOf w)⟩, ⟨0xF018, 0xF0FF, fun w => .ldStVx (xOf w)⟩,
   ⟨0xF01E, 0xF0FF, fun w => .addI (xOf w)⟩, ⟨0xF029, 0xF0FF, fun w => .ldF (xOf w)⟩,
   ⟨0xF033, 0xF0FF, fun w => .ldB (xOf w)⟩, ⟨0xF055, 0xF0FF, fun w => .stRegs (xOf w)⟩,
   ⟨0xF065, 0xF0FF, fun w => .ldRegs (xOf w)⟩]

/-- The opcode map of R85, all 34 rows in its order. -/
def opcodeMap : List OpcodeRow := rowsFlow ++ rowsAlu ++ rowsIndex ++ rowsMisc

/-- The handlers of the step that can raise a fault, and the conditions under which they do (R231 to R233), seen by the handler. -/
def HandlerFault (i : Instr) (s : State) (k : Fault) : Prop :=
  match i with
  | .ret => k = .stackUnderflow ∧ s.sp.val = 0
  | .call _ => k = .stackOverflow ∧ s.sp.val = 16
  | .drw _ _ n => k = .addressOutOfRange ∧ 0 < n ∧ 4095 < s.i.toNat + n - 1
  | .ldB _ => k = .addressOutOfRange ∧ 4095 < s.i.toNat + 2
  | .stRegs x => k = .addressOutOfRange ∧ 4095 < s.i.toNat + x.val
  | .ldRegs x => k = .addressOutOfRange ∧ 4095 < s.i.toNat + x.val
  | _ => False

/-- Some sprite bit of `DRW Vx, Vy, n` falls on pixel `(px, py)` of the screen: row `row` of the sprite is the byte at
`I + row`, its bit 7 at the origin's column (R191 to R195). -/
def SpriteOn (x y : Reg) (n : Nat) (s : State) (px py : Nat) : Prop :=
  ∃ row col, row < n ∧ col < 8 ∧ px = (s.reg x).toNat % 64 + col ∧ py = (s.reg y).toNat % 32 + row ∧ px ≤ 63 ∧ py ≤ 31 ∧
    (s.mem.read (s.i.toNat + row)).getLsbD (7 - col) = true

/-- The drawn pixels collide: one of them was on (R191). -/
def SpriteHits (x y : Reg) (n : Nat) (s : State) : Prop :=
  ∃ px py, SpriteOn x y n s px py ∧ s.fb.pixel px py = true

/-- The instructions that write `VF`: the six flag writers of R21, and those whose ordinary destination is register 15. -/
def WritesVf (i : Instr) : Prop :=
  match i with
  | .addReg _ _ | .sub _ _ | .shr _ _ | .subn _ _ | .shl _ _ | .drw _ _ _ => True
  | .ldImm x _ | .addImm x _ | .ldReg x _ | .or x _ | .and x _ | .xor x _ | .rnd x _ | .ldVxDt x | .ldVxK x | .ldRegs x =>
    x = 15
  | _ => False

/-- The instructions that read the key inputs (R26). -/
def ReadsKeys (i : Instr) : Prop :=
  match i with
  | .skp _ | .sknp _ | .ldVxK _ => True
  | _ => False

/-- The instructions that write `pc` in their handler (10_state.md, summary table). -/
def WritesPc (i : Instr) : Prop :=
  match i with
  | .ret | .jp _ | .call _ | .seImm _ _ | .sneImm _ _ | .seReg _ _ | .sneReg _ _ | .jpV0 _ | .skp _ | .sknp _ | .ldVxK _ => True
  | _ => False

end Sys2Proof.Certificates

open Sys2Proof Sys2Proof.Machine Sys2Proof.Safety Sys2Proof.Certificates

/-! ### Encoding -/

/-- Words written out in the examples of the rules decode to the instructions they stand for (R121 to R215). -/
def Obligations.SpecWordsDecode : Prop :=
  decode 0x00E0#16 = some .cls ∧ decode 0x00EE#16 = some .ret ∧ decode 0x1234#16 = some (.jp 0x234#12) ∧
  decode 0x332A#16 = some (.seImm 3 0x2A#8) ∧ decode 0x8124#16 = some (.addReg 1 2) ∧ decode 0xD121#16 = some (.drw 1 2 1) ∧
  decode 0xE29E#16 = some (.skp 2) ∧ decode 0xF155#16 = some (.stRegs 1) ∧ decode 0x0120#16 = some .cls ∧
  decode 0x800F#16 = none

/-- Decode of encode is the identity on every well-formed instruction (R82, R85): no bit of an operand is dropped. -/
def Obligations.DecodeEncodeRoundTrip : Prop :=
  ∀ i : Instr, i.wellFormed = true → decode (encode i) = some i

/-- The decode procedure by family and sub-selector (R83) is the opcode map by match and mask (R85), with its operands. The
alias words in the map rest on decision D2 (log 6). -/
def Obligations.DecodeAgreesWithOpcodeMap : Prop :=
  ∀ w : Word, decode w = (opcodeMap.find? (fun r => w.toNat &&& r.mask == r.sel)).map (fun r => r.instr w.toNat)

/-- Whatever is decoded is well formed (R81, R84). -/
def Obligations.DecodedInstructionsWellFormed : Prop :=
  ∀ (w : Word) (i : Instr), decode w = some i → i.wellFormed = true ∧ (decode (encode i) = some i)

/-- The unrecognized words are exactly those that R86 lists; that family 0 has no further handler is decision D3 (log 16). -/
def Obligations.UnrecognizedWordsListed : Prop :=
  ∀ w : Word, decode w = none ↔
    (w.toNat / 4096 = 0x0 ∧ w.toNat % 16 ∉ [0x0, 0xE]) ∨
    (w.toNat / 4096 = 0x8 ∧ w.toNat % 16 ∈ [0x8, 0x9, 0xA, 0xB, 0xC, 0xD, 0xF]) ∨
    (w.toNat / 4096 = 0xE ∧ w.toNat % 16 ∉ [0x1, 0xE]) ∨
    (w.toNat / 4096 = 0xF ∧ w.toNat % 256 ∉ [0x07, 0x0A, 0x15, 0x18, 0x1E, 0x29, 0x33, 0x55, 0x65])

/-! ### The step -/

/-- A step runs the instruction at `pc`, with the advance before it and the timer phase after it (R100 to R106). -/
def Obligations.StepRunsDecodedInstruction : Prop :=
  ∀ (s : State) (i : Instr), CanFetch s → instrAtPc s = some i →
    (∀ t, exec i { s with pc := s.pc + 2#16 } = .next t →
      step s = .next { t with dt := if t.dt = 0#8 then 0#8 else t.dt - 1#8,
                              st := if t.st = 0#8 then 0#8 else t.st - 1#8 }) ∧
    (∀ k, exec i { s with pc := s.pc + 2#16 } = .fault k → step s = .fault k)

/-- A word that selects no instruction executes as a no-op: `pc` advances by 2, the timers count, nothing else changes (R105). -/
def Obligations.UnrecognizedWordIsNoOp : Prop :=
  ∀ s : State, CanFetch s → instrAtPc s = none →
    ∃ t, step s = .next t ∧ t.pc.toNat = s.pc.toNat + 2 ∧ t.dt.toNat = s.dt.toNat - 1 ∧ t.st.toNat = s.st.toNat - 1 ∧
      Frame { pc := true, dt := true, st := true } s t

/-- The fetched word is big-endian: the byte at `pc` holds the family and `x`, the byte at `pc + 1` holds `kk`, or `y` and
`n` (R53). -/
def Obligations.FetchIsBigEndian : Prop :=
  ∀ s : State, s.pc.toNat + 1 ≤ 4095 →
    ∃ w, s.fetch = .ok w ∧
      w.toNat = (s.mem.read s.pc.toNat).toNat * 256 + (s.mem.read (s.pc.toNat + 1)).toNat ∧
      (s.mem.read s.pc.toNat).toNat = (fieldFam w).toNat * 16 + (fieldX w).val ∧
      s.mem.read (s.pc.toNat + 1) = fieldKK w ∧
      (s.mem.read (s.pc.toNat + 1)).toNat = (fieldY w).val * 16 + (fieldN w).toNat

/-- A step of a core with no latched fault faults exactly when the fetch would leave memory or the instruction at `pc` meets
its one fault condition (R101, R231, R232, R233, R237). -/
def Obligations.StepFaultsExactlyWhen : Prop :=
  ∀ (s : State) (k : Fault), s.fault = none →
    (step s = .fault k ↔
      (k = .addressOutOfRange ∧ 4095 < s.pc.toNat + 1) ∨
      (s.pc.toNat + 1 ≤ 4095 ∧ ∃ i, instrAtPc s = some i ∧ HandlerFault i s k))

/-- A CALL raises StackOverflow iff the stack is full, a RET StackUnderflow iff it is empty, and no other handler raises
either (R232, R233). -/
def Obligations.StackFaultsExactlyWhen : Prop :=
  ∀ (i : Instr) (s : State),
    (exec i s = .fault .stackOverflow ↔ (∃ nnn, i = .call nnn) ∧ s.sp.val = 16) ∧
    (exec i s = .fault .stackUnderflow ↔ i = .ret ∧ s.sp.val = 0)

/-- Every step answers a next state or a fault: no word is refused (R83, R109). -/
def Obligations.StepAnswersNextOrFault : Prop :=
  ∀ s : State, (∃ t, step s = .next t) ∨ (∃ k, step s = .fault k)

/-- In every step that completes, each timer counts down by one and stops at 0, from its old value or from the value the
instruction wrote (R106, R214, R215, R217). That the phase runs whatever the instruction is decision D19 (log 20). -/
def Obligations.TimersCountInEveryStep : Prop :=
  ∀ s t : State, step s = .next t →
    ((∀ x, instrAtPc s ≠ some (.ldDtVx x)) → t.dt.toNat = s.dt.toNat - 1) ∧
    ((∀ x, instrAtPc s ≠ some (.ldStVx x)) → t.st.toNat = s.st.toNat - 1) ∧
    (∀ x, instrAtPc s = some (.ldDtVx x) → t.dt.toNat = (s.reg x).toNat - 1) ∧
    (∀ x, instrAtPc s = some (.ldStVx x) → t.st.toNat = (s.reg x).toNat - 1)

/-! ### Reset, the host and the invariant -/

/-- The state after reset (R34). Two clauses are the model's: the font bytes are the parameter FONT (D8, log 11), and the
fault latch is the spec's own addition (R31). -/
def Obligations.ResetState : Prop :=
  (∀ r, State.reset.reg r = 0#8) ∧ State.reset.i = 0#16 ∧ State.reset.pc = 0x200#16 ∧ State.reset.sp = 0 ∧
  (∀ k : Fin 16, State.reset.stack[k.val] = 0#16) ∧ State.reset.dt = 0#8 ∧ State.reset.st = 0#8 ∧
  (∀ x y, State.reset.fb.pixel x y = false) ∧ (∀ k, State.reset.key k = false) ∧ State.reset.fault = none ∧
  (∀ a, a < 0x050 ∨ 0x09F < a → State.reset.mem.read a = 0#8) ∧
  (∀ j, j < 80 → State.reset.mem.read (0x050 + j) = config.font.getD j 0#8)

/-- The first step after reset fetches the first two bytes of the loaded image: the entry point is 0x200 (R261, R264). -/
def Obligations.LaunchFetchesFirstWord : Prop :=
  ∀ (hi lo : Byte) (rest : List Byte) (s : State), launch (hi :: lo :: rest) = .ok s →
    CanFetch s ∧ s.pc = 0x200#16 ∧ ∃ w, s.fetch = .ok w ∧ w.toNat = hi.toNat * 256 + lo.toNat

/-- A `load` of at most 3584 bytes writes the image at 0x200 and changes nothing else; the latch is kept by decision D23
(R66, log 23). -/
def Obligations.LoadWritesImage : Prop :=
  ∀ (s : State) (bytes : List Byte), bytes.length ≤ 3584 →
    ∃ t, s.load bytes = .ok t ∧ (∀ k, k < bytes.length → t.mem.read (0x200 + k) = bytes.getD k 0#8) ∧
      Frame { memBase := 0x200, memLen := bytes.length } s t

/-- A `load` of more than 3584 bytes, and no other, is rejected, and the host's move leaves the state as it was, the latch
included (R234). -/
def Obligations.TooLargeImageRejected : Prop :=
  ∀ (s : State) (bytes : List Byte),
    (s.load bytes = .imageTooLarge ↔ 3584 < bytes.length) ∧
    (3584 < bytes.length → ∀ t, HostTrans s (.load bytes) t → t = s)

/-- A latched fault is kept by every move of the host but reset, and a step of a latched core changes nothing and reports the
fault again; reset clears it (R31, R108, R240; decision D14, log 5). That a `load` keeps the latch is decision
D23 (R240, R66; log 23). -/
def Obligations.LatchHoldsUntilReset : Prop :=
  ∀ (s t : State) (m : HostMove) (k : Fault), s.fault = some k → HostTrans s m t →
    (m = .reset → t.fault = none) ∧ (m ≠ .reset → t.fault = some k) ∧ (m = .step → t = s ∧ step s = .fault k)

/-- Every step keeps the invariant: memory in canonical form, `pc` at most 4350, stack entries at most 4096 (R128). -/
def Obligations.StepKeepsInvariant : Prop :=
  ∀ s t : State, Inv s → step s = .next t → Inv t

/-- Every move of the host keeps the invariant (R35, R128, R250). -/
def Obligations.HostMovesKeepInvariant : Prop :=
  ∀ (s t : State) (m : HostMove), Inv s → HostTrans s m t → Inv t

/-- The reset state meets the invariant. -/
def Obligations.ResetMeetsInvariant : Prop := Inv State.reset

/-! ### Rules of the whole machine -/

/-- Nothing a step does depends on the sound timer: no instruction reads ST (R25). -/
def Obligations.SoundTimerIsUnread : Prop :=
  ∀ (s : State) (b : Byte),
    (∀ t, step s = .next t → ∃ c, step { s with st := b } = .next { t with st := c }) ∧
    (∀ k, step s = .fault k → step { s with st := b } = .fault k)

/-- Only SKP, SKNP and LD_VX_K depend on the key inputs (R26). -/
def Obligations.OnlyKeyInstructionsReadKeys : Prop :=
  ∀ (i : Instr) (s : State) (keys : Vector Bool 16), ¬ ReadsKeys i →
    (∀ t, exec i s = .next t → exec i { s with keys := keys } = .next { t with keys := keys }) ∧
    (∀ k, exec i s = .fault k → exec i { s with keys := keys } = .fault k)

/-- An instruction changes VF only if it is one of the six flag writers or has register 15 as its ordinary destination, and a
flag writer leaves 0 or 1 there (R21; decision D6, log 9). -/
def Obligations.VfWritersOnly : Prop :=
  ∀ (i : Instr) (s t : State), exec i s = .next t →
    (t.reg 15 ≠ s.reg 15 → WritesVf i) ∧
    (∀ x y n, i = .addReg x y ∨ i = .sub x y ∨ i = .shr x y ∨ i = .subn x y ∨ i = .shl x y ∨ i = .drw x y n →
      t.reg 15 = 0#8 ∨ t.reg 15 = 1#8)

/-- Each piece of state outside the registers is changed only by the instructions that the summary table of 10_state.md
names (R22 to R28, R57). -/
def Obligations.OnlyNamedInstructionsWrite : Prop :=
  ∀ (i : Instr) (s t : State), exec i s = .next t →
    (t.i ≠ s.i → (∃ nnn, i = .ldI nnn) ∨ (∃ x, i = .addI x) ∨ (∃ x, i = .ldF x)) ∧
    (t.pc ≠ s.pc → WritesPc i) ∧
    (t.stack ≠ s.stack ∨ t.sp ≠ s.sp → i = .ret ∨ ∃ nnn, i = .call nnn) ∧
    (t.dt ≠ s.dt → ∃ x, i = .ldDtVx x) ∧
    (t.st ≠ s.st → ∃ x, i = .ldStVx x) ∧
    (t.fb ≠ s.fb → i = .cls ∨ ∃ x y n, i = .drw x y n) ∧
    (∀ a, t.mem.read a ≠ s.mem.read a → (∃ x, i = .ldB x) ∨ (∃ x, i = .stRegs x)) ∧
    (t.draws ≠ s.draws → ∃ x kk, i = .rnd x kk) ∧
    t.keys = s.keys ∧ t.fault = s.fault

/-- A store is seen by the next fetch from the bytes written, with nothing in between (R63). -/
def Obligations.StoreSeenByNextFetch : Prop :=
  ∀ (x : Reg) (s t : State), 1 ≤ x.val → exec (.stRegs x) s = .next t →
    ∃ w, (t.setPc s.i).fetch = .ok w ∧ w.toNat = (s.reg 0).toNat * 256 + (s.reg 1).toNat

/-- A jump to itself leaves all state as it is but for the timers, which count down (R110; decision D20, log 31). -/
def Obligations.SelfJumpIdles : Prop :=
  ∀ (s : State) (nnn : Addr), CanFetch s → instrAtPc s = some (.jp nnn) → nnn.toNat = s.pc.toNat →
    ∃ t, step s = .next t ∧ t.dt.toNat = s.dt.toNat - 1 ∧ t.st.toNat = s.st.toNat - 1 ∧
      Frame { dt := true, st := true } s t

/-! ### Program counter and call stack -/

/-- RET takes the newest entry into `pc` and uncounts it; the popped entry keeps its value by decision D29 (R120, log 22). -/
def Obligations.RetPopsIntoPc : Prop :=
  ∀ s : State, 0 < s.sp.val →
    ∃ t, exec .ret s = .next t ∧ t.sp.val = s.sp.val - 1 ∧
      (∀ k : Fin 16, k.val + 1 = s.sp.val → t.pc = s.stack[k.val]) ∧ t.stack = s.stack ∧
      Frame { pc := true, stack := true } s t

/-- CALL pushes the advanced `pc` and sets `pc` to the target (R122). -/
def Obligations.CallPushesAdvancedPc : Prop :=
  ∀ (nnn : Addr) (s : State), s.sp.val < 16 →
    ∃ t, exec (.call nnn) s = .next t ∧ t.sp.val = s.sp.val + 1 ∧ t.pc.toNat = nnn.toNat ∧
      (∀ k : Fin 16, t.stack[k.val] = if k.val = s.sp.val then s.pc else s.stack[k.val]) ∧
      Frame { pc := true, stack := true } s t

/-- A RET after a CALL, whatever `pc` is by then, returns to the instruction after the call and restores `sp` (R120, R122). -/
def Obligations.CallThenReturnResumes : Prop :=
  ∀ (nnn : Addr) (s t : State) (later : Word), exec (.call nnn) s = .next t →
    ∃ u, exec .ret { t with pc := later } = .next u ∧ u.pc = s.pc ∧ u.sp = s.sp

/-- JP sets `pc` to the address, absolute, and changes nothing else (R121). -/
def Obligations.JumpSetsPc : Prop :=
  ∀ (nnn : Addr) (s : State),
    ∃ t, exec (.jp nnn) s = .next t ∧ t.pc.toNat = nnn.toNat ∧ Frame { pc := true } s t

/-- JP_V0 sets `pc` to `V[0] + nnn`, whatever register bits 11:8 would name; not masked to 12 bits by decision D22 (R127,
log 18). -/
def Obligations.ComputedJumpAddsV0 : Prop :=
  ∀ (nnn : Addr) (s : State),
    ∃ t, exec (.jpV0 nnn) s = .next t ∧ t.pc.toNat = (s.reg 0).toNat + nnn.toNat ∧ Frame { pc := true } s t

/-- The four comparing skips: 2 more on `pc` when the comparison holds, else `pc` as advanced (R123 to R126). -/
def Obligations.SkipsCompareOperands : Prop :=
  ∀ (x y : Reg) (kk : Byte) (s : State),
    (∃ t, exec (.seImm x kk) s = .next t ∧ t.pc.toNat = (if s.reg x = kk then (s.pc.toNat + 2) % 65536 else s.pc.toNat) ∧
      Frame { pc := true } s t) ∧
    (∃ t, exec (.sneImm x kk) s = .next t ∧ t.pc.toNat = (if s.reg x ≠ kk then (s.pc.toNat + 2) % 65536 else s.pc.toNat) ∧
      Frame { pc := true } s t) ∧
    (∃ t, exec (.seReg x y) s = .next t ∧
      t.pc.toNat = (if s.reg x = s.reg y then (s.pc.toNat + 2) % 65536 else s.pc.toNat) ∧ Frame { pc := true } s t) ∧
    (∃ t, exec (.sneReg x y) s = .next t ∧
      t.pc.toNat = (if s.reg x ≠ s.reg y then (s.pc.toNat + 2) % 65536 else s.pc.toNat) ∧ Frame { pc := true } s t)

/-! ### Register file and ALU -/

/-- LD_IMM, ADD_IMM and LD_REG: the new value of `V[x]`, modulo 256, and no flag (R142 to R144). -/
def Obligations.PlainRegisterForms : Prop :=
  ∀ (x y : Reg) (kk : Byte) (s : State),
    (∃ t, exec (.ldImm x kk) s = .next t ∧ t.reg x = kk ∧ Frame { regs := [x] } s t) ∧
    (∃ t, exec (.addImm x kk) s = .next t ∧ (t.reg x).toNat = ((s.reg x).toNat + kk.toNat) % 256 ∧
      Frame { regs := [x] } s t) ∧
    (∃ t, exec (.ldReg x y) s = .next t ∧ t.reg x = s.reg y ∧ Frame { regs := [x] } s t)

/-- OR, AND and XOR act on each bit of `V[x]` and `V[y]`; that they write no flag is decision D6 (R145 to R147, log 9). -/
def Obligations.BitwiseForms : Prop :=
  ∀ (x y : Reg) (s : State),
    (∃ t, exec (.or x y) s = .next t ∧
      (∀ j, (t.reg x).getLsbD j = ((s.reg x).getLsbD j || (s.reg y).getLsbD j)) ∧ Frame { regs := [x] } s t) ∧
    (∃ t, exec (.and x y) s = .next t ∧
      (∀ j, (t.reg x).getLsbD j = ((s.reg x).getLsbD j && (s.reg y).getLsbD j)) ∧ Frame { regs := [x] } s t) ∧
    (∃ t, exec (.xor x y) s = .next t ∧
      (∀ j, (t.reg x).getLsbD j = ((s.reg x).getLsbD j ^^ (s.reg y).getLsbD j)) ∧ Frame { regs := [x] } s t)

/-- ADD_REG: the sum modulo 256 in `V[x]`, the carry in VF; with `x = 15` VF ends as the carry (R148). -/
def Obligations.AddSetsCarry : Prop :=
  ∀ (x y : Reg) (s : State),
    ∃ t, exec (.addReg x y) s = .next t ∧
      (x ≠ 15 → (t.reg x).toNat = ((s.reg x).toNat + (s.reg y).toNat) % 256) ∧
      (t.reg 15).toNat = (if (s.reg x).toNat + (s.reg y).toNat > 255 then 1 else 0) ∧
      Frame { regs := [x, 15] } s t

/-- SUB and SUBN: the difference modulo 256 in `V[x]`, not-borrow in VF, written last; 1 for equal operands is decision D5
(R149, R151, log 8). -/
def Obligations.SubtractSetsNotBorrow : Prop :=
  ∀ (x y : Reg) (s : State),
    (∃ t, exec (.sub x y) s = .next t ∧
      (x ≠ 15 → (t.reg x).toNat = ((s.reg x).toNat + 256 - (s.reg y).toNat) % 256) ∧
      (t.reg 15).toNat = (if (s.reg x).toNat ≥ (s.reg y).toNat then 1 else 0) ∧ Frame { regs := [x, 15] } s t) ∧
    (∃ t, exec (.subn x y) s = .next t ∧
      (x ≠ 15 → (t.reg x).toNat = ((s.reg y).toNat + 256 - (s.reg x).toNat) % 256) ∧
      (t.reg 15).toNat = (if (s.reg y).toNat ≥ (s.reg x).toNat then 1 else 0) ∧ Frame { regs := [x, 15] } s t)

/-- SHR and SHL: `V[x]` shifted by one place, the bit shifted out in VF, written last; that `V[x]` and not `V[y]` is shifted
is decision D4 (R150, R152, log 7). -/
def Obligations.ShiftsDropBitIntoVf : Prop :=
  ∀ (x y : Reg) (s : State),
    (∃ t, exec (.shr x y) s = .next t ∧ (x ≠ 15 → (t.reg x).toNat = (s.reg x).toNat / 2) ∧
      (t.reg 15).toNat = (s.reg x).toNat % 2 ∧ Frame { regs := [x, 15] } s t) ∧
    (∃ t, exec (.shl x y) s = .next t ∧ (x ≠ 15 → (t.reg x).toNat = 2 * (s.reg x).toNat % 256) ∧
      (t.reg 15).toNat = (s.reg x).toNat / 128 ∧ Frame { regs := [x, 15] } s t)

/-- RND: `V[x]` becomes a fresh drawn byte under the mask `kk`, so a bit that is 0 in `kk` is 0; the byte is free (R153;
decision D15, log 2). -/
def Obligations.RandomByteIsMasked : Prop :=
  ∀ (x : Reg) (kk : Byte) (s : State),
    ∃ t, exec (.rnd x kk) s = .next t ∧ t.reg x = Config.drawByte s.draws &&& kk ∧
      (∀ j, kk.getLsbD j = false → (t.reg x).getLsbD j = false) ∧ t.draws = s.draws + 1 ∧
      Frame { regs := [x], draws := true } s t

/-! ### Index register and memory -/

/-- LD_I: `I` becomes the address, zero-extended (R170). -/
def Obligations.LoadIndexSetsI : Prop :=
  ∀ (nnn : Addr) (s : State),
    ∃ t, exec (.ldI nnn) s = .next t ∧ t.i.toNat = nnn.toNat ∧ Frame { i := true } s t

/-- ADD_I adds `V[x]` modulo 65536 with no flag (R171; decision D6, log 9); LD_F gives `0x050 + 5 * V[x]`, not masked (R172;
decision D17, log 19). -/
def Obligations.IndexArithmetic : Prop :=
  ∀ (x : Reg) (s : State),
    (∃ t, exec (.addI x) s = .next t ∧ t.i.toNat = (s.i.toNat + (s.reg x).toNat) % 65536 ∧ Frame { i := true } s t) ∧
    (∃ t, exec (.ldF x) s = .next t ∧ t.i.toNat = 0x050 + 5 * (s.reg x).toNat ∧ Frame { i := true } s t)

/-- LD_B stores the hundreds, tens and units digit at `I`, `I+1`, `I+2` (R173); the range is over unbounded addresses by
decision D21 (log 18). -/
def Obligations.DecimalDigitsStored : Prop :=
  ∀ (x : Reg) (s : State), s.i.toNat + 2 ≤ 4095 →
    ∃ t, exec (.ldB x) s = .next t ∧
      (t.mem.read s.base).toNat = (s.reg x).toNat / 100 ∧
      (t.mem.read (s.base + 1)).toNat = (s.reg x).toNat / 10 % 10 ∧
      (t.mem.read (s.base + 2)).toNat = (s.reg x).toNat % 10 ∧
      Frame { memBase := s.base, memLen := 3 } s t

/-- ST_REGS stores `V[0]` to `V[x]` at `I` to `I+x` and leaves `I` (R174; decision D18, log 19). -/
def Obligations.RegistersStored : Prop :=
  ∀ (x : Reg) (s : State), s.i.toNat + x.val ≤ 4095 →
    ∃ t, exec (.stRegs x) s = .next t ∧ (∀ r : Reg, r ≤ x → t.mem.read (s.base + r.val) = s.reg r) ∧
      Frame { memBase := s.base, memLen := x.val + 1 } s t

/-- LD_REGS loads `V[0]` to `V[x]` from `I` to `I+x`, leaves the registers above and `I` (R175; decision D18, log 19). -/
def Obligations.RegistersLoaded : Prop :=
  ∀ (x : Reg) (s : State), s.i.toNat + x.val ≤ 4095 →
    ∃ t, exec (.ldRegs x) s = .next t ∧ (∀ r : Reg, r ≤ x → t.reg r = s.mem.read (s.i.toNat + r.val)) ∧
      (∀ r : Reg, x < r → t.reg r = s.reg r) ∧ Frame { regs := List.finRange 16 } s t

/-- LD_REGS after ST_REGS with the same `I` and `x`, in any state with that memory, restores `V[0]` to `V[x]` (R174, R175). -/
def Obligations.StoreThenLoadRestoresRegisters : Prop :=
  ∀ (x : Reg) (s t t' : State), exec (.stRegs x) s = .next t → t'.mem = t.mem → t'.i = s.i →
    ∃ u, exec (.ldRegs x) t' = .next u ∧ ∀ r : Reg, r ≤ x → u.reg r = s.reg r

/-! ### Framebuffer -/

/-- CLS turns every pixel off and changes nothing else, VF included (R190). -/
def Obligations.ClearTurnsAllPixelsOff : Prop :=
  ∀ s : State, ∃ t, exec .cls s = .next t ∧ (∀ px py, t.fb.pixel px py = false) ∧ Frame { fb := true } s t

/-- DRW inverts exactly the pixels under the sprite's set bits, origin wrapped, edges clipped, and sets VF iff one of them
was on; the bit order (D7, log 10), the range check of clipped rows (D11, log 14) and the order of reads and the VF write
(D12, log 15) are decisions (R191 to R196). -/
def Obligations.DrawInvertsSpritePixels : Prop :=
  ∀ (x y : Reg) (n : Nat) (s : State), n = 0 ∨ s.i.toNat + n - 1 ≤ 4095 →
    ∃ t, exec (.drw x y n) s = .next t ∧
      (∀ px py, (t.fb.pixel px py = true ↔ ¬ (s.fb.pixel px py = true ↔ SpriteOn x y n s px py))) ∧
      ((t.reg 15 = 1#8 ∧ SpriteHits x y n s) ∨ (t.reg 15 = 0#8 ∧ ¬ SpriteHits x y n s)) ∧
      Frame { regs := [15], fb := true } s t

/-- The same sprite drawn twice at the same coordinates: the framebuffer is as before the first draw, and from a blank one
with a visible set bit the first draw leaves VF = 0 and the second VF = 1 (R191). Which bit is visible at the right edge rests
on bit 7 being leftmost (D7, PRESUMED, log 10) and on clipping (DRAW_EDGE of D10, log 13). The coordinates are in registers
other than VF, which the first draw writes last (D12, log 15); DrawInvertsSpritePixels covers one draw with VF among them. -/
def Obligations.DrawTwiceCancels : Prop :=
  ∀ (x y : Reg) (n : Nat) (s t : State), x ≠ 15 → y ≠ 15 → exec (.drw x y n) s = .next t →
    ∃ u, exec (.drw x y n) t = .next u ∧ (∀ px py, u.fb.pixel px py = s.fb.pixel px py) ∧
      ((∀ px py, s.fb.pixel px py = false) → (∃ px py, SpriteOn x y n s px py) → t.reg 15 = 0#8 ∧ u.reg 15 = 1#8)

/-! ### Keys and timers -/

/-- SKP and SKNP test the key numbered by the low four bits of `V[x]` (R210, R211). -/
def Obligations.KeySkipsTestMaskedKey : Prop :=
  ∀ (x : Reg) (k : Fin 16) (s : State), k.val = (s.reg x).toNat % 16 →
    (∃ t, exec (.skp x) s = .next t ∧
      t.pc.toNat = (if s.key k = true then (s.pc.toNat + 2) % 65536 else s.pc.toNat) ∧ Frame { pc := true } s t) ∧
    (∃ t, exec (.sknp x) s = .next t ∧
      t.pc.toNat = (if s.key k = false then (s.pc.toNat + 2) % 65536 else s.pc.toNat) ∧ Frame { pc := true } s t)

/-- LD_VX_K: the least pressed key goes to `V[x]`; with none pressed `pc` steps back by 2 and nothing else changes (R213);
that a held key satisfies it at once is decision D27 (log 21). -/
def Obligations.KeyWaitTakesLeastKey : Prop :=
  ∀ (x : Reg) (s : State),
    (∀ k : Fin 16, s.key k = true → (∀ j : Fin 16, j < k → s.key j = false) →
      ∃ t, exec (.ldVxK x) s = .next t ∧ (t.reg x).toNat = k.val ∧ Frame { regs := [x] } s t) ∧
    ((∀ k, s.key k = false) →
      ∃ t, exec (.ldVxK x) s = .next t ∧ t.pc = s.pc - 2#16 ∧ Frame { pc := true } s t)

/-- A step of LD_VX_K with no key pressed leaves `pc` as it was before the step and changes nothing but the timers, which
count (R213; decision D19, log 20). -/
def Obligations.KeyWaitReplays : Prop :=
  ∀ (x : Reg) (s : State), CanFetch s → instrAtPc s = some (.ldVxK x) → (∀ k, s.key k = false) →
    ∃ t, step s = .next t ∧ t.dt.toNat = s.dt.toNat - 1 ∧ t.st.toNat = s.st.toNat - 1 ∧
      Frame { dt := true, st := true } s t

/-- The handlers of LD_VX_DT, LD_DT_VX and LD_ST_VX, before the step's timer phase (R212, R214, R215). -/
def Obligations.TimerAccessForms : Prop :=
  ∀ (x : Reg) (s : State),
    (∃ t, exec (.ldVxDt x) s = .next t ∧ t.reg x = s.dt ∧ Frame { regs := [x] } s t) ∧
    (∃ t, exec (.ldDtVx x) s = .next t ∧ t.dt = s.reg x ∧ Frame { dt := true } s t) ∧
    (∃ t, exec (.ldStVx x) s = .next t ∧ t.st = s.reg x ∧ Frame { st := true } s t)

/-- The whole step of LD_VX_DT, LD_DT_VX and LD_ST_VX, timer phase included: a timer written is decremented in the same step,
which R217 derives from R106, and the other timer counts (R212, R214, R215; R106, R217). -/
def Obligations.TimerAccessSteps : Prop :=
  ∀ (x : Reg) (s : State), CanFetch s →
    (instrAtPc s = some (.ldVxDt x) →
      ∃ t, step s = .next t ∧ t.reg x = s.dt ∧ t.dt.toNat = s.dt.toNat - 1 ∧ t.st.toNat = s.st.toNat - 1 ∧
        t.pc.toNat = s.pc.toNat + 2 ∧ Frame { regs := [x], pc := true, dt := true, st := true } s t) ∧
    (instrAtPc s = some (.ldDtVx x) →
      ∃ t, step s = .next t ∧ t.dt.toNat = (s.reg x).toNat - 1 ∧ t.st.toNat = s.st.toNat - 1 ∧
        t.pc.toNat = s.pc.toNat + 2 ∧ Frame { pc := true, dt := true, st := true } s t) ∧
    (instrAtPc s = some (.ldStVx x) →
      ∃ t, step s = .next t ∧ t.st.toNat = (s.reg x).toNat - 1 ∧ t.dt.toNat = s.dt.toNat - 1 ∧
        t.pc.toNat = s.pc.toNat + 2 ∧ Frame { pc := true, dt := true, st := true } s t)
end

