-- ==== Sys2Proof/Laws/Display.lean ====
section
/-! SUPPORT. Laws of the framebuffer (44_display.md): what toggling a pixel, a sprite bit, a sprite row and a sprite do to each
pixel and to the collision flag. -/

namespace Sys2Proof.Machine

@[simp] theorem Framebuffer.pixel_blank (x y : Nat) : Framebuffer.blank.pixel x y = false := by
  unfold Framebuffer.pixel Framebuffer.blank
  split <;> simp

/-- No pixel is on off the screen (R27). -/
theorem Framebuffer.pixel_off_screen (f : Framebuffer) (x y : Nat) (h : ¬ (x < 64 ∧ y < 32)) : f.pixel x y = false := by
  simp [Framebuffer.pixel, h]

theorem Framebuffer.pixel_on_screen (f : Framebuffer) (x y : Nat) (hx : x < 64) (hy : y < 32) :
    f.pixel x y = f[y][x] := by
  simp [Framebuffer.pixel, hx, hy]

theorem Framebuffer.toggle_on_screen (f : Framebuffer) (x y : Nat) (hx : x < 64) (hy : y < 32) :
    f.toggle x y = f.set y (f[y].set x (!f[y][x])) := by
  simp [Framebuffer.toggle, hx, hy]

/-- Toggling a pixel of the screen inverts it and leaves every other pixel as it was. -/
theorem Framebuffer.pixel_toggle (f : Framebuffer) (x y : Nat) (hx : x < 64) (hy : y < 32) (a b : Nat) :
    (f.toggle x y).pixel a b = (f.pixel a b ^^ decide (a = x ∧ b = y)) := by
  by_cases hab : a < 64 ∧ b < 32
  · rw [Framebuffer.toggle_on_screen f x y hx hy, Framebuffer.pixel_on_screen _ _ _ hab.1 hab.2,
      Framebuffer.pixel_on_screen _ _ _ hab.1 hab.2, Vector.getElem_set]
    by_cases hb : y = b
    · subst hb
      by_cases ha : x = a
      · subst ha
        simp
      · simp [ha, Ne.symm ha]
    · simp [hb, Ne.symm hb]
  · have : ¬ (a = x ∧ b = y) := by
      rintro ⟨rfl, rfl⟩
      exact hab ⟨hx, hy⟩
    simp [Framebuffer.pixel_off_screen _ _ _ hab, this]

/-- One sprite bit at column `x0 + col` of a row on the screen (R191, R193, R195): a set bit that is not clipped toggles its
pixel and collides when the pixel was on; anything else changes nothing. -/
theorem drawBit_eq (x0 py : Nat) (b : Byte) (d : Drawing) (col : Nat) :
    drawBit x0 py b d col =
      if x0 + col < 64 ∧ b.getLsbD (7 - col) = true then (d.1.toggle (x0 + col) py, d.2 || d.1.pixel (x0 + col) py)
      else d := by
  by_cases h : x0 + col < 64 <;> cases hb : b.getLsbD (7 - col) <;>
    simp [drawBit, placeOnAxis, config, spriteBit, h, hb]

/-- Whether a sprite row `b` with its left end at column `x0` has a set bit on column `a` (R195). -/
def rowCovers (x0 : Nat) (b : Byte) (a : Nat) : Bool := decide (x0 ≤ a ∧ a < x0 + 8 ∧ a < 64) && b.getLsbD (7 - (a - x0))

theorem drawBits_pixel (x0 py : Nat) (b : Byte) (hy : py < 32) (n : Nat) (hn : n ≤ 8) (d : Drawing) (a r : Nat) :
    ((List.range n).foldl (drawBit x0 py b) d).1.pixel a r =
      (d.1.pixel a r ^^ (decide (r = py ∧ a < x0 + n) && rowCovers x0 b a)) := by
  induction n with
  | zero =>
    have : ¬ (x0 ≤ a ∧ a < x0) := by omega
    by_cases h : a < x0
    · have h2 : ¬ x0 ≤ a := by omega
      simp [rowCovers, h2]
    · simp [h]
  | succ n ih =>
    have ih := ih (by omega)
    rw [List.range_succ, List.foldl_append, List.foldl_cons, List.foldl_nil, drawBit_eq]
    split
    · rename_i h
      rw [Framebuffer.pixel_toggle _ _ _ h.1 hy, ih]
      by_cases hr : r = py
      · by_cases ha : a = x0 + n
        · subst ha
          have hcov : rowCovers x0 b (x0 + n) = true := by
            simp only [rowCovers, Bool.and_eq_true, decide_eq_true_eq, Nat.add_sub_cancel_left]
            exact ⟨by omega, h.2⟩
          simp [hr, hcov]
        · have : (a < x0 + (n + 1)) ↔ a < x0 + n := by omega
          simp [hr, ha, this]
      · simp [hr]
    · rename_i h
      rw [ih]
      by_cases ha : a = x0 + n
      · subst ha
        have : rowCovers x0 b (x0 + n) = false := by
          simp only [rowCovers, Bool.and_eq_false_iff, decide_eq_false_iff_not]
          by_cases h64 : x0 + n < 64
          · right
            simpa [h64] using h
          · left
            omega
        simp [this]
      · have : (a < x0 + (n + 1)) ↔ a < x0 + n := by omega
        simp [this]

/-- A sprite row on screen row `py` inverts exactly the pixels under its set bits (R191). -/
theorem drawRow_pixel (x0 py : Nat) (b : Byte) (hy : py < 32) (d : Drawing) (a r : Nat) :
    (drawRow x0 py b d).1.pixel a r = (d.1.pixel a r ^^ (decide (r = py) && rowCovers x0 b a)) := by
  rw [drawRow, drawBits_pixel _ _ _ hy _ (by omega)]
  by_cases h : a < x0 + 8
  · simp [h]
  · have : rowCovers x0 b a = false := by simp [rowCovers, h]
    simp [this]

theorem drawBits_hit (x0 py : Nat) (b : Byte) (hy : py < 32) (n : Nat) (hn : n ≤ 8) (d : Drawing) :
    ((List.range n).foldl (drawBit x0 py b) d).2 = true ↔
      d.2 = true ∨ ∃ a, a < x0 + n ∧ rowCovers x0 b a = true ∧ d.1.pixel a py = true := by
  induction n with
  | zero =>
    have : ∀ a, a < x0 + 0 → rowCovers x0 b a = false := by
      intro a h
      have : ¬ x0 ≤ a := by omega
      simp [rowCovers, this]
    simp only [List.range_zero, List.foldl_nil]
    constructor
    · exact .inl
    · rintro (h | ⟨a, ha, hc, -⟩)
      · exact h
      · simp [this a ha] at hc
  | succ n ih =>
    have ih := ih (by omega)
    have hcov : rowCovers x0 b (x0 + n) = true ↔ x0 + n < 64 ∧ b.getLsbD (7 - n) = true := by
      simp [rowCovers]
      omega
    have hpix := drawBits_pixel x0 py b hy n (by omega) d (x0 + n) py
    simp only [lt_irrefl, and_false, decide_false, Bool.false_and, Bool.xor_false] at hpix
    rw [List.range_succ, List.foldl_append, List.foldl_cons, List.foldl_nil, drawBit_eq]
    split
    · rename_i h
      simp only [Bool.or_eq_true, ih, hpix]
      constructor
      · rintro ((h1 | ⟨a, ha, hc⟩) | h1)
        · exact .inl h1
        · exact .inr ⟨a, by omega, hc⟩
        · exact .inr ⟨x0 + n, by omega, hcov.2 h, h1⟩
      · rintro (h1 | ⟨a, ha, hc, hp⟩)
        · exact .inl (.inl h1)
        · by_cases he : a = x0 + n
          · subst he
            exact .inr hp
          · exact .inl (.inr ⟨a, by omega, hc, hp⟩)
    · rename_i h
      rw [ih]
      constructor
      · rintro (h1 | ⟨a, ha, hc⟩)
        · exact .inl h1
        · exact .inr ⟨a, by omega, hc⟩
      · rintro (h1 | ⟨a, ha, hc, hp⟩)
        · exact .inl h1
        · by_cases he : a = x0 + n
          · subst he
            exact absurd (hcov.1 hc) h
          · exact .inr ⟨a, by omega, hc, hp⟩

/-- A sprite row collides exactly when a pixel under one of its set bits was on (R191). -/
theorem drawRow_hit (x0 py : Nat) (b : Byte) (hy : py < 32) (d : Drawing) :
    (drawRow x0 py b d).2 = true ↔ d.2 = true ∨ ∃ a, rowCovers x0 b a = true ∧ d.1.pixel a py = true := by
  rw [drawRow, drawBits_hit _ _ _ hy _ (by omega)]
  constructor
  · rintro (h | ⟨a, -, h⟩)
    · exact .inl h
    · exact .inr ⟨a, h⟩
  · rintro (h | ⟨a, h, hp⟩)
    · exact .inl h
    · refine .inr ⟨a, ?_, h, hp⟩
      simp [rowCovers] at h
      omega

/-- Whether the sprite rows, with their first at screen row `y`, have a set bit on pixel `(a, r)` of the screen (R193). -/
def spriteCovers (x0 y : Nat) (rows : List Byte) (a r : Nat) : Bool :=
  decide (r < 32 ∧ y ≤ r ∧ r < y + rows.length) && rowCovers x0 (rows.getD (r - y) 0#8) a

theorem spriteCovers_cons (x0 y : Nat) (b : Byte) (bs : List Byte) (a r : Nat) :
    spriteCovers x0 y (b :: bs) a r =
      ((decide (y < 32 ∧ r = y) && rowCovers x0 b a) || spriteCovers x0 (y + 1) bs a r) := by
  unfold spriteCovers
  by_cases h : r = y
  · subst h
    simp
  · by_cases h2 : y + 1 ≤ r
    · have h4 : r - y = (r - (y + 1)) + 1 := by omega
      have h5 : (r < 32 ∧ y ≤ r ∧ r < y + (b :: bs).length) ↔ (r < 32 ∧ y + 1 ≤ r ∧ r < y + 1 + bs.length) := by
        simp
        omega
      rw [h4, List.getD_cons_succ]
      simp only [h5]
      simp [h]
    · have h3 : ¬ y ≤ r := by omega
      simp [h, h3]
      omega

theorem spriteCovers_above (x0 y : Nat) (rows : List Byte) (a r : Nat) (h : r < y) : spriteCovers x0 y rows a r = false := by
  have : ¬ y ≤ r := by omega
  simp [spriteCovers, this]

theorem drawRows_cons (x0 y : Nat) (b : Byte) (bs : List Byte) (d : Drawing) :
    drawRows x0 y (b :: bs) d = drawRows x0 (y + 1) bs (if y < 32 then drawRow x0 y b d else d) := by
  by_cases h : y < 32 <;> simp [drawRows, placeOnAxis, config, h]

/-- A sprite inverts exactly the pixels of the screen under its set bits (R191, R193). -/
theorem drawRows_pixel (x0 y : Nat) (rows : List Byte) (d : Drawing) (a r : Nat) :
    (drawRows x0 y rows d).1.pixel a r = (d.1.pixel a r ^^ spriteCovers x0 y rows a r) := by
  induction rows generalizing y d with
  | nil =>
    have : ¬ (y ≤ r ∧ r < y) := by omega
    by_cases h : y ≤ r
    · have h2 : ¬ r < y := by omega
      simp [drawRows, spriteCovers, h2]
    · simp [drawRows, spriteCovers, h]
  | cons b bs ih =>
    rw [drawRows_cons, ih, spriteCovers_cons]
    split
    · rename_i hy
      rw [drawRow_pixel _ _ _ hy]
      by_cases h : r = y
      · subst h
        simp [hy, spriteCovers_above x0 (r + 1) bs a r (by omega)]
      · simp [h]
    · rename_i hy
      simp [hy]

/-- A sprite collides exactly when a pixel under one of its set bits was on (R191). -/
theorem drawRows_hit (x0 y : Nat) (rows : List Byte) (d : Drawing) :
    (drawRows x0 y rows d).2 = true ↔
      d.2 = true ∨ ∃ a r, spriteCovers x0 y rows a r = true ∧ d.1.pixel a r = true := by
  induction rows generalizing y d with
  | nil =>
    simp only [drawRows]
    constructor
    · exact .inl
    · rintro (h | ⟨a, r, h, -⟩)
      · exact h
      · simp [spriteCovers] at h
        omega
  | cons b bs ih =>
    rw [drawRows_cons, ih]
    simp only [spriteCovers_cons]
    split
    · rename_i hy
      rw [drawRow_hit _ _ _ hy]
      constructor
      · rintro ((h | ⟨a, hc, hp⟩) | ⟨a, r, hc, hp⟩)
        · exact .inl h
        · exact .inr ⟨a, y, by simp [hy, hc], hp⟩
        · refine .inr ⟨a, r, by simp [hc], ?_⟩
          by_cases h : r = y
          · rw [spriteCovers_above _ _ _ _ _ (by omega)] at hc
            simp at hc
          · rw [drawRow_pixel _ _ _ hy] at hp
            simpa [h] using hp
      · rintro (h | ⟨a, r, hc, hp⟩)
        · exact .inl (.inl h)
        · by_cases h : r = y
          · subst h
            rw [spriteCovers_above x0 (r + 1) bs a r (by omega)] at hc
            exact .inl (.inr ⟨a, by simpa [hy] using hc, hp⟩)
          · refine .inr ⟨a, r, by simpa [h] using hc, ?_⟩
            rw [drawRow_pixel _ _ _ hy]
            simpa [h] using hp
    · rename_i hy
      simp [hy]

end Sys2Proof.Machine
end

