-- ==== Sys2Proof/Laws/Memory.lean ====
section
/-! SUPPORT. Laws of memory (20_memory.md R54, R56, R58): a read gives the last byte written, a write leaves every other
address alone, and every operation keeps the canonical form. -/

namespace Sys2Proof.Machine

/-! ### One byte -/

theorem Memory.read_insert (a : Nat) (b : Byte) (m : Memory) (hm : ∀ c ∈ m, c.1 ≠ a) (x : Nat) :
    Memory.read (Memory.insert a b m) x = if a = x then b else m.read x := by
  induction m with
  | nil => simp [Memory.insert, Memory.read]
  | cons c rest ih =>
    have hc : c.1 ≠ a := hm c (by simp)
    have hr := ih (fun d hd => hm d (by simp [hd]))
    simp only [Memory.insert]
    split
    · simp [Memory.read]
    · simp only [Memory.read, hr]
      by_cases h1 : c.1 = x
      · have : a ≠ x := fun h => hc (h1.trans h.symm)
        simp [h1, this]
      · simp [h1]

theorem Memory.read_filter_other (m : Memory) (a x : Nat) (h : x ≠ a) :
    Memory.read (m.filter (fun c => c.1 != a)) x = m.read x := by
  induction m with
  | nil => rfl
  | cons c rest ih =>
    by_cases hc : c.1 = a
    · have : c.1 ≠ x := fun e => h (e ▸ hc)
      simp [hc, Memory.read, ih, Ne.symm h]
    · simp [hc, Memory.read, ih]

theorem Memory.read_absent (m : Memory) (a : Nat) (h : ∀ c ∈ m, c.1 ≠ a) : m.read a = Memory.resetByte a := by
  induction m with
  | nil => rfl
  | cons c rest ih =>
    simp [Memory.read, h c (by simp), ih (fun d hd => h d (by simp [hd]))]

theorem Memory.filter_absent (m : Memory) (a : Nat) : ∀ c ∈ m.filter (fun c => c.1 != a), c.1 ≠ a := by
  intro c hc
  simpa using (List.mem_filter.1 hc).2

/-- Reading after one write (R58), in any memory. -/
theorem Memory.read_write (m : Memory) (a : Nat) (b : Byte) (x : Nat) :
    (m.write a b).read x = if a = x then b else m.read x := by
  unfold Memory.write
  by_cases hx : a = x
  · subst hx
    split
    · rename_i hb
      simp [hb, Memory.read_absent _ _ (Memory.filter_absent m a)]
    · simp [Memory.read_insert _ _ _ (Memory.filter_absent m a)]
  · split
    · simpa only [if_neg hx] using Memory.read_filter_other _ _ _ (Ne.symm hx)
    · simp [hx, Memory.read_insert _ _ _ (Memory.filter_absent m a), Memory.read_filter_other _ _ _ (Ne.symm hx)]

@[simp] theorem Memory.read_write_same (m : Memory) (a : Nat) (b : Byte) : (m.write a b).read a = b := by
  simp [Memory.read_write]

@[simp] theorem Memory.read_write_other (m : Memory) (a : Nat) (b : Byte) (x : Nat) (h : x ≠ a) :
    (m.write a b).read x = m.read x := by
  simp [Memory.read_write, Ne.symm h]

@[simp] theorem Memory.read_nil (a : Nat) : Memory.read [] a = Memory.resetByte a := rfl

/-! ### The canonical form -/

theorem Memory.mem_insert (a : Nat) (b : Byte) (m : Memory) (c : Host.Cell) :
    c ∈ Memory.insert a b m ↔ c = (a, b) ∨ c ∈ m := by
  induction m with
  | nil => simp [Memory.insert]
  | cons d rest ih =>
    simp only [Memory.insert]
    split
    · simp
    · simp [ih]
      tauto

theorem Memory.insert_rising (a : Nat) (b : Byte) (m : Memory) (hm : ∀ c ∈ m, c.1 ≠ a)
    (h : m.Pairwise (fun c d => c.1 < d.1)) : (Memory.insert a b m).Pairwise (fun c d => c.1 < d.1) := by
  induction m with
  | nil => simp [Memory.insert]
  | cons c rest ih =>
    have hc : c.1 ≠ a := hm c (by simp)
    obtain ⟨hlt, hrest⟩ := List.pairwise_cons.1 h
    simp only [Memory.insert]
    split
    · rename_i hac
      refine List.pairwise_cons.2 ⟨?_, h⟩
      intro d hd
      rcases List.mem_cons.1 hd with rfl | hd
      · exact hac
      · exact lt_trans hac (hlt d hd)
    · rename_i hac
      refine List.pairwise_cons.2 ⟨?_, ih (fun d hd => hm d (by simp [hd])) hrest⟩
      intro d hd
      rcases (Memory.mem_insert a b rest d).1 hd with rfl | hd
      · show c.1 < a
        omega
      · exact hlt d hd

/-- The empty list, reset memory, has the canonical form. -/
theorem Memory.wf_nil : Memory.wf [] := ⟨List.Pairwise.nil, by simp⟩

/-- A store to an address that exists keeps the canonical form. -/
theorem Memory.wf_write (m : Memory) (a : Nat) (b : Byte) (h : m.wf) (ha : a < 4096) : (m.write a b).wf := by
  obtain ⟨hs, hc⟩ := h
  have hs' : (m.filter (fun c => c.1 != a)).Pairwise (fun c d => c.1 < d.1) := hs.filter _
  have hc' : ∀ c ∈ m.filter (fun c => c.1 != a), c.1 < 4096 ∧ c.2 ≠ Memory.resetByte c.1 :=
    fun c hm => hc c (List.mem_filter.1 hm).1
  unfold Memory.write
  split
  · exact ⟨hs', hc'⟩
  · rename_i hb
    refine ⟨Memory.insert_rising _ _ _ (Memory.filter_absent m a) hs', ?_⟩
    intro c hm
    rcases (Memory.mem_insert _ _ _ _).1 hm with rfl | hm
    · exact ⟨ha, hb⟩
    · exact hc' c hm

/-! ### Several bytes at ascending addresses -/

/-- Reading after a store of several bytes (R54): the byte stored at its offset, and every other address as before. -/
theorem Memory.read_writeBytes (m : Memory) (a : Nat) (bs : List Byte) (x : Nat) :
    (m.writeBytes a bs).read x = if a ≤ x ∧ x < a + bs.length then bs.getD (x - a) 0#8 else m.read x := by
  induction bs generalizing m a with
  | nil =>
    simp [Memory.writeBytes]
  | cons b bs ih =>
    simp only [Memory.writeBytes, ih, Memory.read_write, List.length_cons]
    by_cases h1 : a = x
    · subst h1
      simp
    · by_cases h2 : a + 1 ≤ x ∧ x < a + 1 + bs.length
      · have h3 : a ≤ x ∧ x < a + (bs.length + 1) := by omega
        have h4 : x - a = (x - (a + 1)) + 1 := by omega
        rw [if_pos h2, if_pos h3, h4, List.getD_cons_succ]
      · have h3 : ¬ (a ≤ x ∧ x < a + (bs.length + 1)) := by omega
        rw [if_neg h2, if_neg h3, if_neg h1]

/-- A store of several bytes to addresses that exist keeps the canonical form. -/
theorem Memory.wf_writeBytes (m : Memory) (a : Nat) (bs : List Byte) (h : m.wf) (ha : a + bs.length ≤ 4096) :
    (m.writeBytes a bs).wf := by
  induction bs generalizing m a with
  | nil => simpa [Memory.writeBytes] using h
  | cons b bs ih =>
    simp only [List.length_cons] at ha
    exact ih _ _ (Memory.wf_write m a b h (by omega)) (by omega)

@[simp] theorem Memory.length_readBytes (m : Memory) (a n : Nat) : (m.readBytes a n).length = n := by
  induction n generalizing a with
  | zero => rfl
  | succ n ih => simp [Memory.readBytes, ih]

/-- The `k`-th byte read is the one at offset `k` (R54). -/
theorem Memory.getElem_readBytes (m : Memory) (a n k : Nat) (h : k < (m.readBytes a n).length) :
    (m.readBytes a n)[k] = m.read (a + k) := by
  induction n generalizing a k with
  | zero => simp [Memory.readBytes] at h
  | succ n ih =>
    cases k with
    | zero => simp [Memory.readBytes]
    | succ k =>
      simp only [Memory.readBytes, List.getElem_cons_succ]
      rw [ih]
      congr 1
      omega

/-! ### The range check (R56, R57) -/

theorem inRange_iff (a n : Nat) : inRange a n = true ↔ n = 0 ∨ a + n ≤ 4096 := by
  simp only [inRange, Bool.or_eq_true, beq_iff_eq, decide_eq_true_eq]
  omega

/-- Reading a range answers its bytes exactly when all of them exist, and AddressOutOfRange otherwise. -/
theorem State.readRange_cases (s : State) (a n : Nat) :
    (n = 0 ∨ a + n ≤ 4096) ∧ s.readRange a n = .ok (s.mem.readBytes a n) ∨
    (n ≠ 0 ∧ 4096 < a + n) ∧ s.readRange a n = .error .addressOutOfRange := by
  unfold State.readRange
  split
  · rename_i h
    exact .inl ⟨(inRange_iff _ _).1 h, rfl⟩
  · rename_i h
    rw [inRange_iff] at h
    exact .inr ⟨by omega, rfl⟩

/-- Writing a range changes memory exactly when all of its bytes exist, and answers AddressOutOfRange otherwise. -/
theorem State.writeRange_cases (s : State) (a : Nat) (bs : List Byte) :
    (bs.length = 0 ∨ a + bs.length ≤ 4096) ∧ s.writeRange a bs = .ok (s.setMem (s.mem.writeBytes a bs)) ∨
    (bs.length ≠ 0 ∧ 4096 < a + bs.length) ∧ s.writeRange a bs = .error .addressOutOfRange := by
  unfold State.writeRange
  split
  · rename_i h
    exact .inl ⟨(inRange_iff _ _).1 h, rfl⟩
  · rename_i h
    rw [inRange_iff] at h
    exact .inr ⟨by omega, rfl⟩

end Sys2Proof.Machine
end

