-- ==== Sys2Proof/Laws/Ops.lean ====
section
/-! SUPPORT. For each shared operation over the stack, the register file, the keys, the timers and the fetch: what it answers,
said once. -/

namespace Sys2Proof.Machine

/-! ### The call stack (R24, R120, R122) -/

/-- A push with room writes the entry that `sp` indexes and counts it; a full stack answers StackOverflow. -/
theorem State.push_cases (s : State) (w : Word) :
    (∃ h : s.sp.val < 16, s.push w =
      .ok { s with stack := s.stack.set s.sp.val w, sp := ⟨s.sp.val + 1, by omega⟩ }) ∨
    s.sp.val = 16 ∧ s.push w = .error .stackOverflow := by
  unfold State.push
  split
  · rename_i h
    exact .inl ⟨h, rfl⟩
  · exact .inr ⟨by omega, rfl⟩

/-- A pop of an entry answers the newest entry and uncounts it; an empty stack answers StackUnderflow. -/
theorem State.pop_cases (s : State) :
    (∃ h : 0 < s.sp.val, s.pop =
      .ok (s.stack[s.sp.val - 1]'(by omega), { s with sp := ⟨s.sp.val - 1, by omega⟩ })) ∨
    s.sp.val = 0 ∧ s.pop = .error .stackUnderflow := by
  unfold State.pop
  split
  · rename_i h
    exact .inl ⟨h, rfl⟩
  · exact .inr ⟨by omega, rfl⟩

/-! ### Register blocks (R174, R175) -/

@[simp] theorem State.length_regsUpTo (s : State) (x : Reg) : (s.regsUpTo x).length = x.val + 1 := by
  simp [State.regsUpTo]

/-- The `k`-th byte that ST_REGS stores is `V[k]`. -/
theorem State.getElem_regsUpTo (s : State) (x : Reg) (k : Nat) (h : k < (s.regsUpTo x).length) :
    (s.regsUpTo x)[k] = s.reg ⟨k, by rw [State.length_regsUpTo] at h; omega⟩ := by
  simp [State.regsUpTo, State.reg]

theorem getElem_fillRegs (v : Vector Byte 16) (k : Nat) (bs : List Byte) (j : Nat) (hj : j < 16) :
    (fillRegs v k bs)[j] = if k ≤ j ∧ j < k + bs.length then bs.getD (j - k) 0#8 else v[j] := by
  induction bs generalizing v k with
  | nil => simp [fillRegs]
  | cons b bs ih =>
    simp only [fillRegs, ih, List.length_cons]
    by_cases h1 : j = k
    · subst h1
      simp
    · by_cases h2 : k + 1 ≤ j ∧ j < k + 1 + bs.length
      · have h3 : k ≤ j ∧ j < k + (bs.length + 1) := by omega
        have h4 : j - k = (j - (k + 1)) + 1 := by omega
        rw [if_pos h2, if_pos h3, h4, List.getD_cons_succ]
      · have h3 : ¬ (k ≤ j ∧ j < k + (bs.length + 1)) := by omega
        rw [if_neg h2, if_neg h3]
        simp [Ne.symm h1]

/-- After LD_REGS's write of `bs`, register `q` holds byte `q` of `bs` if there is one, else what it held. -/
theorem State.loadRegs_reg (s : State) (bs : List Byte) (q : Reg) :
    (s.loadRegs bs).reg q = if q.val < bs.length then bs.getD q.val 0#8 else s.reg q := by
  simp [State.reg, getElem_fillRegs]

/-! ### Keys (R213) -/

/-- The least pressed key: pressed, with every lower key released. -/
theorem State.leastKey_some (s : State) (k : Nat) (h : s.leastKey = some k) :
    ∃ hk : k < 16, s.key ⟨k, hk⟩ = true ∧ ∀ j : Fin 16, j.val < k → s.key j = false := by
  unfold State.leastKey at h
  obtain ⟨hk, hp, hlt⟩ := List.findIdx?_eq_some_iff_getElem.1 h
  have hk' : k < 16 := by simpa using hk
  refine ⟨hk', by simpa [State.key] using hp, fun j hj => ?_⟩
  simpa [State.key] using hlt j.val hj

/-- No key is pressed exactly when there is no least one. -/
theorem State.leastKey_none (s : State) : s.leastKey = none ↔ ∀ j : Fin 16, s.key j = false := by
  unfold State.leastKey
  rw [List.findIdx?_eq_none_iff]
  constructor
  · intro h j
    exact h _ (by simp [State.key])
  · intro h b hb
    obtain ⟨j, hj, rfl⟩ := List.getElem_of_mem hb
    simpa [State.key] using h ⟨j, by simpa using hj⟩

/-! ### Timers (R106) -/

/-- A count down never wraps: it is the predecessor, and 0 stays 0. -/
theorem tick_toNat (b : Byte) : (tick b).toNat = b.toNat - 1 := by
  unfold tick
  split
  · rename_i h
    simp [h]
  · rename_i h
    have : b.toNat ≠ 0 := fun h0 => h (BitVec.eq_of_toNat_eq (by simpa using h0))
    rw [BitVec.toNat_sub]
    have := b.isLt
    simp only [BitVec.toNat_ofNat]
    omega

/-! ### Fetch (R101) -/

/-- The fetch answers the big-endian word at `pc` when both its bytes exist, and AddressOutOfRange otherwise. -/
theorem State.fetch_cases (s : State) :
    s.pc.toNat ≤ 4094 ∧
      s.fetch = .ok (wordOfBytes (s.mem.read s.pc.toNat) (s.mem.read (s.pc.toNat + 1))) ∨
    4095 ≤ s.pc.toNat ∧ s.fetch = .error .addressOutOfRange := by
  unfold State.fetch
  split
  · exact .inr ⟨by omega, rfl⟩
  · rename_i h
    have h0 : ¬ s.pc.toNat > 4095 := by omega
    have h1 : ¬ s.pc.toNat + 1 > 4095 := by omega
    exact .inl ⟨by omega, by simp [State.memRead, h0, h1]⟩

/-! ### The step (R100) -/

/-- A step that answers a next state fetched a word, ran its handler on the advanced state, and ticked the timers. -/
theorem step_next_cases {s t : State} (h : step s = .next t) :
    s.fault = none ∧ s.pc.toNat ≤ 4094 ∧ ∃ w u, s.fetch = .ok w ∧ t = u.tickTimers ∧
      ((∃ i, Sys2Proof.decode w = some i ∧ exec i s.advancePc = .next u) ∨
        (Sys2Proof.decode w = none ∧ u = s.advancePc)) := by
  unfold step at h
  split at h
  · simp [raise] at h
  rename_i hf
  split at h
  · simp [raise] at h
  rename_i w hw
  have hpc : s.pc.toNat ≤ 4094 := by
    rcases State.fetch_cases s with ⟨hp, -⟩ | ⟨-, he⟩
    · exact hp
    · simp [he] at hw
  refine ⟨hf, hpc, w, ?_⟩
  split at h
  · rename_i i hi
    cases hx : exec i s.advancePc with
    | next u =>
      rw [hx] at h
      exact ⟨u, hw, by simpa [finishStep] using h.symm, .inl ⟨i, hi, hx⟩⟩
    | fault k => simp [hx, finishStep, raise] at h
    | refused r => simp [hx, finishStep] at h
  · rename_i hi
    exact ⟨s.advancePc, hw, by simpa [finishStep, execUnrecognized] using h.symm, .inr ⟨hi, rfl⟩⟩

end Sys2Proof.Machine
end

