-- ==== Sys2Proof/Laws/PerInstr.lean ====
section
/-! SUPPORT. A law of every instruction as syntax: the word that `encode` gives matches the instruction's pattern of R85
digit for digit, and so is never an alias word (R87, R89). -/

namespace Sys2Proof.Laws.EncodesItsPattern

/-- The encoded word of a well-formed instruction matches its canonical mask (R85). -/
def Statement (i : Instr) : Prop :=
  i.wellFormed = true → encode i &&& (canonicalMatchMask i).2 = (canonicalMatchMask i).1

theorem and_ones (f : BitVec 4) : f &&& 0xF#4 = f := BitVec.and_allOnes

/-- Format A keeps its family nibble under the mask 0xF000. -/
theorem formatA_family (f : BitVec 4) (nnn : Addr) : formatA f nnn &&& 0xF000#16 = f ++ 0#12 := by
  have h : (f ++ nnn) &&& (0xF#4 ++ 0#12) = f ++ 0#12 := by rw [BitVec.and_append, and_ones, BitVec.and_zero]
  exact h

/-- Formats XK, XE and XF keep their family nibble under the mask 0xF000. -/
theorem formatXK_family (f : BitVec 4) (x : Reg) (kk : Byte) : formatXK f x kk &&& 0xF000#16 = f ++ 0#12 := by
  have h : (f ++ (BitVec.ofFin x : BitVec 4) ++ kk) &&& ((0xF#4 ++ 0#4) ++ 0#8) = (f ++ 0#4) ++ 0#8 := by
    rw [BitVec.and_append, BitVec.and_append, and_ones, BitVec.and_zero, BitVec.and_zero]
  have h2 : ∀ g : BitVec 4, (g ++ 0#4) ++ 0#8 = g ++ 0#12 := by decide
  exact h.trans (h2 f)

/-- Formats XE and XF keep their family nibble and sub-selector under the mask 0xF0FF. -/
theorem formatXK_selector (f : BitVec 4) (x : Reg) (kk : Byte) :
    formatXK f x kk &&& 0xF0FF#16 = (f ++ 0#4) ++ kk := by
  have h : (f ++ (BitVec.ofFin x : BitVec 4) ++ kk) &&& ((0xF#4 ++ 0#4) ++ 0xFF#8) = (f ++ 0#4) ++ kk := by
    rw [BitVec.and_append, BitVec.and_append, and_ones, BitVec.and_zero]
    exact congrArg _ BitVec.and_allOnes
  exact h

/-- Formats XY and XYN keep their family nibble and low nibble under the mask 0xF00F. -/
theorem formatXY_selector (f : BitVec 4) (x y : Reg) (n : BitVec 4) :
    formatXY f x y n &&& 0xF00F#16 = (f ++ 0#8) ++ n := by
  have h : (f ++ (BitVec.ofFin x : BitVec 4) ++ (BitVec.ofFin y : BitVec 4) ++ n) &&&
      (((0xF#4 ++ 0#4) ++ 0#4) ++ 0xF#4) = ((f ++ 0#4) ++ 0#4) ++ n := by
    rw [BitVec.and_append, BitVec.and_append, BitVec.and_append, and_ones, and_ones, BitVec.and_zero, BitVec.and_zero]
  have h2 : ∀ g : BitVec 4, (g ++ 0#4) ++ 0#4 = g ++ 0#8 := by decide
  exact h.trans (congrArg (· ++ n) (h2 f))

/-- Format XYN keeps its family nibble under the mask 0xF000. -/
theorem formatXY_family (f : BitVec 4) (x y : Reg) (n : BitVec 4) : formatXY f x y n &&& 0xF000#16 = f ++ 0#12 := by
  have h : (f ++ (BitVec.ofFin x : BitVec 4) ++ (BitVec.ofFin y : BitVec 4) ++ n) &&&
      (((0xF#4 ++ 0#4) ++ 0#4) ++ 0#4) = ((f ++ 0#4) ++ 0#4) ++ 0#4 := by
    rw [BitVec.and_append, BitVec.and_append, BitVec.and_append, and_ones, BitVec.and_zero, BitVec.and_zero, BitVec.and_zero]
  have h2 : ∀ g : BitVec 4, ((g ++ 0#4) ++ 0#4) ++ 0#4 = g ++ 0#12 := by decide
  exact h.trans (h2 f)

theorem cls : Statement (.cls) := by
  intro _
  decide
theorem ret : Statement (.ret) := by
  intro _
  decide
theorem jp (nnn : Addr) : Statement (.jp nnn) := fun _ => formatA_family _ _
theorem call (nnn : Addr) : Statement (.call nnn) := fun _ => formatA_family _ _
theorem seImm (x : Reg) (kk : Byte) : Statement (.seImm x kk) := fun _ => formatXK_family _ _ _
theorem sneImm (x : Reg) (kk : Byte) : Statement (.sneImm x kk) := fun _ => formatXK_family _ _ _
theorem seReg (x : Reg) (y : Reg) : Statement (.seReg x y) := fun _ => formatXY_selector _ _ _ _
theorem ldImm (x : Reg) (kk : Byte) : Statement (.ldImm x kk) := fun _ => formatXK_family _ _ _
theorem addImm (x : Reg) (kk : Byte) : Statement (.addImm x kk) := fun _ => formatXK_family _ _ _
theorem ldReg (x : Reg) (y : Reg) : Statement (.ldReg x y) := fun _ => formatXY_selector _ _ _ _
theorem or (x : Reg) (y : Reg) : Statement (.or x y) := fun _ => formatXY_selector _ _ _ _
theorem and (x : Reg) (y : Reg) : Statement (.and x y) := fun _ => formatXY_selector _ _ _ _
theorem xor (x : Reg) (y : Reg) : Statement (.xor x y) := fun _ => formatXY_selector _ _ _ _
theorem addReg (x : Reg) (y : Reg) : Statement (.addReg x y) := fun _ => formatXY_selector _ _ _ _
theorem sub (x : Reg) (y : Reg) : Statement (.sub x y) := fun _ => formatXY_selector _ _ _ _
theorem shr (x : Reg) (y : Reg) : Statement (.shr x y) := fun _ => formatXY_selector _ _ _ _
theorem subn (x : Reg) (y : Reg) : Statement (.subn x y) := fun _ => formatXY_selector _ _ _ _
theorem shl (x : Reg) (y : Reg) : Statement (.shl x y) := fun _ => formatXY_selector _ _ _ _
theorem sneReg (x : Reg) (y : Reg) : Statement (.sneReg x y) := fun _ => formatXY_selector _ _ _ _
theorem ldI (nnn : Addr) : Statement (.ldI nnn) := fun _ => formatA_family _ _
theorem jpV0 (nnn : Addr) : Statement (.jpV0 nnn) := fun _ => formatA_family _ _
theorem rnd (x : Reg) (kk : Byte) : Statement (.rnd x kk) := fun _ => formatXK_family _ _ _
theorem drw (x : Reg) (y : Reg) (n : Nat) : Statement (.drw x y n) := fun _ => formatXY_family _ _ _ _
theorem skp (x : Reg) : Statement (.skp x) := fun _ => formatXK_selector _ _ _
theorem sknp (x : Reg) : Statement (.sknp x) := fun _ => formatXK_selector _ _ _
theorem ldVxDt (x : Reg) : Statement (.ldVxDt x) := fun _ => formatXK_selector _ _ _
theorem ldVxK (x : Reg) : Statement (.ldVxK x) := fun _ => formatXK_selector _ _ _
theorem ldDtVx (x : Reg) : Statement (.ldDtVx x) := fun _ => formatXK_selector _ _ _
theorem ldStVx (x : Reg) : Statement (.ldStVx x) := fun _ => formatXK_selector _ _ _
theorem addI (x : Reg) : Statement (.addI x) := fun _ => formatXK_selector _ _ _
theorem ldF (x : Reg) : Statement (.ldF x) := fun _ => formatXK_selector _ _ _
theorem ldB (x : Reg) : Statement (.ldB x) := fun _ => formatXK_selector _ _ _
theorem stRegs (x : Reg) : Statement (.stRegs x) := fun _ => formatXK_selector _ _ _
theorem ldRegs (x : Reg) : Statement (.ldRegs x) := fun _ => formatXK_selector _ _ _

end Sys2Proof.Laws.EncodesItsPattern
end

