-- ==== Sys2Proof/Tests/Slice0.lean ====
section
/-! SUPPORT. The model's own tests. Expected values come from the worked examples S1 to S10 and the vectors T1 to T165 of
spec/95_test_vectors.md, and from the encodings of 30_encoding.md R85; and a witness for the hypotheses of each statement. -/

namespace Sys2Proof.Tests

open Sys2Proof.Machine Sys2Proof.Safety Sys2Proof.Certificates

/-! ### Well-formedness and decoding -/

theorem test_wellFormed_refuses_row_count_16 : (Instr.drw 0 0 16).wellFormed = false := by decide
theorem test_wellFormed_admits_row_count_15 : (Instr.drw 15 15 15).wellFormed = true := by decide

/-- Words written from R85: families 0, 1, 2, 3, 4, 5, 9 and B. -/
theorem test_decode_flow :
    decode 0x00E0#16 = some .cls ∧ decode 0x00EE#16 = some .ret ∧ decode 0x1ABC#16 = some (.jp 0xABC#12) ∧
    decode 0x2ABC#16 = some (.call 0xABC#12) ∧ decode 0x3A5C#16 = some (.seImm 10 0x5C#8) ∧
    decode 0x4A5C#16 = some (.sneImm 10 0x5C#8) ∧ decode 0x5AB0#16 = some (.seReg 10 11) ∧
    decode 0x9AB0#16 = some (.sneReg 10 11) ∧ decode 0xBABC#16 = some (.jpV0 0xABC#12) := by decide

/-- Words written from R85: families 6, 7, 8 and C. -/
theorem test_decode_alu :
    decode 0x6A5C#16 = some (.ldImm 10 0x5C#8) ∧ decode 0x7A5C#16 = some (.addImm 10 0x5C#8) ∧
    decode 0x8AB0#16 = some (.ldReg 10 11) ∧ decode 0x8AB1#16 = some (.or 10 11) ∧ decode 0x8AB2#16 = some (.and 10 11) ∧
    decode 0x8AB3#16 = some (.xor 10 11) ∧ decode 0x8AB4#16 = some (.addReg 10 11) ∧ decode 0x8AB5#16 = some (.sub 10 11) ∧
    decode 0x8AB6#16 = some (.shr 10 11) ∧ decode 0x8AB7#16 = some (.subn 10 11) ∧ decode 0x8ABE#16 = some (.shl 10 11) ∧
    decode 0xCA5C#16 = some (.rnd 10 0x5C#8) := by decide

/-- Words written from R85: families A, D, E and F. -/
theorem test_decode_memory_display_keys :
    decode 0xAABC#16 = some (.ldI 0xABC#12) ∧ decode 0xDAB7#16 = some (.drw 10 11 7) ∧ decode 0xEA9E#16 = some (.skp 10) ∧
    decode 0xEAA1#16 = some (.sknp 10) ∧ decode 0xFA07#16 = some (.ldVxDt 10) ∧ decode 0xFA0A#16 = some (.ldVxK 10) ∧
    decode 0xFA15#16 = some (.ldDtVx 10) ∧ decode 0xFA18#16 = some (.ldStVx 10) ∧ decode 0xFA1E#16 = some (.addI 10) ∧
    decode 0xFA29#16 = some (.ldF 10) ∧ decode 0xFA33#16 = some (.ldB 10) ∧ decode 0xFA55#16 = some (.stRegs 10) ∧
    decode 0xFA65#16 = some (.ldRegs 10) := by decide

/-- Alias words (R87; T7 to T13). -/
theorem test_decode_alias_words :
    decode 0x0000#16 = some .cls ∧ decode 0x012E#16 = some .ret ∧ decode 0x5127#16 = some (.seReg 1 2) ∧
    decode 0x912F#16 = some (.sneReg 1 2) ∧ decode 0xE20E#16 = some (.skp 2) ∧ decode 0xE2F1#16 = some (.sknp 2) := by decide

/-- Unrecognized words (R86; T1 to T6). -/
theorem test_decode_unrecognized_words :
    decode 0x800F#16 = none ∧ decode 0x8008#16 = none ∧ decode 0x0001#16 = none ∧ decode 0xE000#16 = none ∧
    decode 0xF000#16 = none ∧ decode 0xF166#16 = none := by decide

/-- Under DECODE_ALIASES = exact the alias words are unrecognized and the canonical words are not (R87). -/
theorem test_decode_exact :
    decodeUnder .exact 0x0000#16 = none ∧ decodeUnder .exact 0x5127#16 = none ∧ decodeUnder .exact 0xE20E#16 = none ∧
    decodeUnder .exact 0x00E0#16 = some .cls ∧ decodeUnder .exact 0x5120#16 = some (.seReg 1 2) ∧
    decodeUnder .exact 0xE29E#16 = some (.skp 2) := by decide

theorem test_decodeBytes_rejects_by_name :
    decodeBytes [0x12#8] = .error .truncated ∧ decodeBytes [0x80#8, 0x0F#8] = .error (.unrecognized 0x800F#16) ∧
    decodeBytes [0x12#8, 0x34#8, 0x56#8] = .ok (.jp 0x234#12, [0x56#8]) := by
  refine ⟨rfl, rfl, rfl⟩

theorem test_encode_words :
    encode (.drw 1 2 5) = 0xD125#16 ∧ encode (.jpV0 0x300#12) = 0xB300#16 ∧ encode (.skp 2) = 0xE29E#16 ∧
    encode (.ldImm 10 0x2F#8) = 0x6A2F#16 := by decide

theorem test_decodeTableWord : decodeTableWord 16 0xD125 = some (.drw 1 2 5) ∧ decodeTableWord 16 0x800F = none := by decide

/-! ### One step -/

/-- The reset state with the given registers. -/
def regs (l : List (Reg × Byte)) : State := l.foldl (fun s p => s.setReg p.1 p.2) State.reset

/-- The reset state with the given key pressed. -/
def pressing (s : State) (k : Fin 16) : State := { s with keys := s.keys.set k.val true }

/-- What `f` sees after one step of the word, or none if the step does not complete. -/
def after {α : Type} (w : Nat) (s : State) (f : State → α) : Option α :=
  match step (s.withFetchWord 16 w) with
  | .next t => some (f t)
  | _ => none

/-- The fault that one step of the word raises, if any. -/
def faultOf (w : Nat) (s : State) : Option Fault :=
  match step (s.withFetchWord 16 w) with
  | .fault k => some k
  | _ => none

/-- `pc` as a number. -/
def pcOf (s : State) : Nat := s.pc.toNat

-- T1
theorem test_nop : after 0x800F (State.reset.setDt 3#8) (fun t => (pcOf t, t.dt)) = some (0x202, 2#8) := by decide
-- T7
theorem test_cls : after 0x0000 (State.reset.setFb (State.reset.fb.toggle 1 1)) (fun t => (pcOf t, t.fb.pixel 1 1)) =
    some (0x202, false) := by decide
-- T14, T22
theorem test_fetch_fault : step (State.reset.setPc 4095#16) = .fault .addressOutOfRange := rfl
-- T15
theorem test_last_fetch : after 0x6A01 (State.reset.setPc 4094#16) (fun t => (pcOf t, t.reg 10)) = some (4096, 1#8) := by
  decide
-- T17
theorem test_latched : step { State.reset with fault := some .stackOverflow } = .fault .stackOverflow := rfl
-- T27, T28
theorem test_ret_underflow : faultOf 0x00EE State.reset = some .stackUnderflow := by decide
theorem test_ret : after 0x00EE { State.reset with sp := 1, stack := State.reset.stack.set 0 0x206#16 }
    (fun t => (pcOf t, t.sp, t.stack[0])) = some (0x206, 0, 0x206#16) := by decide
-- T20, T21
theorem test_jp : after 0x1234 State.reset pcOf = some 0x234 := by decide
theorem test_jp_odd : after 0x1201 State.reset pcOf = some 0x201 := by decide
-- T25, T26
theorem test_call : after 0x2300 (State.reset.setPc 4094#16) (fun t => (pcOf t, t.sp, t.stack[0])) =
    some (0x300, 1, 0x1000#16) := by decide
theorem test_call_overflow : faultOf 0x2300 { State.reset with sp := 16 } = some .stackOverflow := by decide
-- T29, T30
theorem test_seImm_taken : after 0x332A (regs [(3, 0x2A#8)]) pcOf = some 0x204 := by decide
theorem test_seImm_untaken : after 0x332A (regs [(3, 0x2B#8)]) pcOf = some 0x202 := by decide
-- T31, T32
theorem test_sneImm_untaken : after 0x432A (regs [(3, 0x2A#8)]) pcOf = some 0x202 := by decide
theorem test_sneImm_taken : after 0x432A State.reset pcOf = some 0x204 := by decide
-- T34, T10
theorem test_seReg_untaken : after 0x5120 (regs [(1, 7#8), (2, 8#8)]) pcOf = some 0x202 := by decide
theorem test_seReg_alias_taken : after 0x5127 (regs [(1, 7#8), (2, 7#8)]) pcOf = some 0x204 := by decide
-- T36, T37
theorem test_sneReg_taken : after 0x9120 (regs [(1, 7#8), (2, 8#8)]) pcOf = some 0x204 := by decide
theorem test_sneReg_untaken : after 0x9120 (regs [(1, 7#8), (2, 7#8)]) pcOf = some 0x202 := by decide
-- T40, T41
theorem test_jpV0_unmasked : after 0xBFFF (regs [(0, 0xFF#8)]) pcOf = some 0x10FE := by decide
theorem test_jpV0_uses_V0 : after 0xB3FF (regs [(0, 1#8), (3, 0x50#8)]) pcOf = some 0x400 := by decide

-- T50
theorem test_ldImm : after 0x6A2F State.reset (fun t => t.reg 10) = some 0x2F#8 := by decide
-- T51, T52
theorem test_addImm_wraps : after 0x710A (regs [(1, 250#8), (15, 1#8)]) (fun t => (t.reg 1, t.reg 15)) =
    some (4#8, 1#8) := by decide
theorem test_addImm_to_VF : after 0x7FFF State.reset (fun t => t.reg 15) = some 0xFF#8 := by decide
-- T53
theorem test_ldReg : after 0x8120 (regs [(2, 9#8)]) (fun t => (t.reg 1, t.reg 2)) = some (9#8, 9#8) := by decide
-- T54
theorem test_or : after 0x8121 (regs [(1, 0xF0#8), (2, 0x0F#8), (15, 7#8)]) (fun t => (t.reg 1, t.reg 15)) =
    some (0xFF#8, 7#8) := by decide
-- T55
theorem test_and : after 0x8122 (regs [(1, 0xF0#8), (2, 0x3C#8), (15, 7#8)]) (fun t => (t.reg 1, t.reg 15)) =
    some (0x30#8, 7#8) := by decide
-- T56
theorem test_xor : after 0x8123 (regs [(1, 0xF0#8), (2, 0x3C#8), (15, 7#8)]) (fun t => (t.reg 1, t.reg 15)) =
    some (0xCC#8, 7#8) := by decide
-- S3, T63
theorem test_addReg_carry : after 0x8124 (regs [(1, 200#8), (2, 100#8)]) (fun t => (t.reg 1, t.reg 15)) =
    some (44#8, 1#8) := by decide
theorem test_addReg_VF_operand : after 0x81F4 (regs [(1, 250#8), (15, 10#8)]) (fun t => (t.reg 1, t.reg 15)) =
    some (4#8, 1#8) := by decide
-- S4, T69
theorem test_sub_borrow : after 0x8125 (regs [(1, 5#8), (2, 10#8)]) (fun t => (t.reg 1, t.reg 15)) =
    some (251#8, 0#8) := by decide
theorem test_sub_to_VF : after 0x8F15 (regs [(15, 5#8), (1, 3#8)]) (fun t => t.reg 15) = some 1#8 := by decide
-- T76, T79
theorem test_shr_ignores_y : after 0x8126 (regs [(1, 4#8), (2, 0xFF#8), (15, 1#8)]) (fun t => (t.reg 1, t.reg 15)) =
    some (2#8, 0#8) := by decide
theorem test_shr_VF : after 0x8F06 (regs [(15, 3#8)]) (fun t => t.reg 15) = some 1#8 := by decide
-- T72, T73
theorem test_subn_borrow : after 0x8127 (regs [(1, 10#8), (2, 5#8)]) (fun t => (t.reg 1, t.reg 15)) =
    some (251#8, 0#8) := by decide
theorem test_subn_equal : after 0x8127 (regs [(1, 7#8), (2, 7#8)]) (fun t => (t.reg 1, t.reg 15)) =
    some (0#8, 1#8) := by decide
-- T81, T82
theorem test_shl_out : after 0x810E (regs [(1, 0x81#8)]) (fun t => (t.reg 1, t.reg 15)) = some (2#8, 1#8) := by decide
theorem test_shl_clears_VF : after 0x810E (regs [(1, 0x7F#8), (15, 1#8)]) (fun t => (t.reg 1, t.reg 15)) =
    some (0xFE#8, 0#8) := by decide
-- T87; for the drawn byte itself no value can be expected (D15)
theorem test_rnd_zero_mask : after 0xC300 (regs [(3, 9#8)]) (fun t => (t.reg 3, t.draws)) = some (0#8, 1) := by
  show some (Config.drawByte 0 &&& 0#8, 1) = _
  rw [BitVec.and_zero]

-- T90
theorem test_ldI : after 0xA300 State.reset (fun t => t.i) = some 0x300#16 := by decide
-- T91, T92
theorem test_addI : after 0xF21E ((regs [(2, 0x10#8)]).setI 0x300#16) (fun t => t.i) = some 0x310#16 := by decide
theorem test_addI_wraps : after 0xF21E ((regs [(2, 1#8)]).setI 0xFFFF#16) (fun t => (t.i, t.reg 15)) =
    some (0#16, 0#8) := by decide
-- T95, T97
theorem test_ldF : after 0xF029 (regs [(0, 0x0F#8)]) (fun t => t.i) = some 0x09B#16 := by decide
theorem test_ldF_unmasked : after 0xF029 (regs [(0, 0xFF#8)]) (fun t => t.i) = some 0x54B#16 := by decide
-- T100, T101
theorem test_ldB_top : after 0xF033 ((regs [(0, 123#8)]).setI 4093#16)
    (fun t => (t.mem.read 0xFFD, t.mem.read 0xFFE, t.mem.read 0xFFF)) = some (1#8, 2#8, 3#8) := by decide
theorem test_ldB_fault : faultOf 0xF033 ((regs [(0, 123#8)]).setI 4094#16) = some .addressOutOfRange := by decide
-- T102, T106
theorem test_stRegs : after 0xF155 ((regs [(0, 0x12#8), (1, 0x0A#8), (2, 0x77#8)]).setI 0x300#16)
    (fun t => (t.mem.read 0x300, t.mem.read 0x301, t.mem.read 0x302, t.i)) = some (0x12#8, 0x0A#8, 0#8, 0x300#16) := by decide
theorem test_stRegs_fault : faultOf 0xFF55 (State.reset.setI 4081#16) = some .addressOutOfRange := by decide
-- T107, T109
theorem test_ldRegs : after 0xF265
    (((regs [(3, 0x99#8)]).setI 0x300#16).setMem (Memory.writeBytes [] 0x300 [1#8, 5#8, 6#8, 7#8]))
    (fun t => (t.reg 0, t.reg 1, t.reg 2, t.reg 3)) = some (1#8, 5#8, 6#8, 0x99#8) := by decide
theorem test_ldRegs_fault : faultOf 0xF165 (State.reset.setI 0xFFFF#16) = some .addressOutOfRange := by decide

/-- The reset state with sprite bytes at 0x300 and `I` there. -/
def sprite (s : State) (bs : List Byte) : State := (s.setI 0x300#16).setMem (Memory.writeBytes [] 0x300 bs)

-- T123
theorem test_drw_collision :
    after 0xD121 ((sprite (regs [(1, 10#8), (2, 5#8)]) [0xC0#8]).setFb (State.reset.fb.toggle 11 5))
      (fun t => (t.fb.pixel 10 5, t.fb.pixel 11 5, t.fb.pixel 12 5, t.reg 15)) = some (true, false, false, 1#8) := by decide
-- T127
theorem test_drw_clips : after 0xD122 (sprite (regs [(1, 62#8)]) [0xFF#8, 0x3F#8])
    (fun t => (t.fb.pixel 62 0, t.fb.pixel 63 0, t.fb.pixel 0 0, t.fb.pixel 62 1)) = some (true, true, false, false) := by
  decide

-- T142, T141
theorem test_skp_masks : after 0xE29E (pressing (regs [(2, 0x1A#8)]) 10) pcOf = some 0x204 := by decide
theorem test_skp_untaken : after 0xE29E (pressing (regs [(2, 5#8)]) 10) pcOf = some 0x202 := by decide
-- T143, T144
theorem test_sknp_taken : after 0xE2A1 (regs [(2, 5#8)]) pcOf = some 0x204 := by decide
theorem test_sknp_untaken : after 0xE2A1 (pressing (regs [(2, 5#8)]) 5) pcOf = some 0x202 := by decide
-- T145
theorem test_ldVxDt : after 0xF107 (State.reset.setDt 9#8) (fun t => (t.reg 1, t.dt)) = some (9#8, 8#8) := by decide
-- T151, T152
theorem test_ldVxK_waits : after 0xF20A (((regs [(2, 0x55#8)]).setPc 0x206#16).setDt 3#8)
    (fun t => (pcOf t, t.reg 2, t.dt)) = some (0x206, 0x55#8, 2#8) := by decide
theorem test_ldVxK_least : after 0xF20A (pressing (pressing (State.reset.setPc 0x206#16) 7) 2)
    (fun t => (pcOf t, t.reg 2)) = some (0x208, 2#8) := by decide
-- T147, T148
theorem test_ldDtVx : after 0xF015 (regs [(0, 10#8)]) (fun t => (t.dt, t.st)) = some (9#8, 0#8) := by decide
theorem test_ldDtVx_zero : after 0xF015 (State.reset.setDt 7#8) (fun t => t.dt) = some 0#8 := by decide
-- T150
theorem test_ldStVx : after 0xF018 ((regs [(0, 2#8)]).setDt 1#8) (fun t => (t.st, t.dt)) = some (1#8, 0#8) := by decide

/-! ### The host's operations -/

/-- The state `load` leaves, if it accepts the image. -/
def loaded (s : State) (bs : List Byte) : Option State :=
  match s.load bs with
  | .ok t => some t
  | .imageTooLarge => none

-- T162
theorem test_load : (loaded State.reset [0x12#8, 0x00#8]).map (fun t => (t.mem.read 0x200, t.mem.read 0x201)) =
    some (0x12#8, 0x00#8) := by decide
-- T163
theorem test_load_keeps_rest :
    (loaded (State.reset.setMem (Memory.writeBytes [] 0x200 [1#8, 2#8, 3#8])) [9#8]).map
      (fun t => (t.mem.read 0x200, t.mem.read 0x201, t.mem.read 0x202)) = some (9#8, 2#8, 3#8) := by decide
/-- A store of the reset content unlists the byte, so that equal memories are equal data. -/
theorem test_memory_canonical : (Memory.write (Memory.write [] 0x300 5#8) 0x300 0#8) = [] := by decide
/-- The font lies where R52 puts it: the first and last byte. -/
theorem test_font_ends : State.reset.mem.read 0x050 = 0xF0#8 ∧ State.reset.mem.read 0x09F = 0x80#8 ∧ config.font.length = 80 := by
  decide

/-! ### Witnesses: concrete states and operands that meet the hypotheses of each statement -/

/-- The reset state with a word to run. -/
def ready (w : Nat) (s : State) : State := s.withFetchWord 16 w

/-- The reset state with `sp` entries in use. -/
def depth (n : Fin 17) : State := { State.reset with sp := n }

theorem witness_DecodeEncodeRoundTrip : (Instr.drw 15 15 15).wellFormed = true := by decide
theorem witness_DecodedInstructionsWellFormed : decode 0xDFFF#16 = some (.drw 15 15 15) := by decide
theorem witness_StepRunsDecodedInstruction_next :
    CanFetch (ready 0x6A2F State.reset) ∧ instrAtPc (ready 0x6A2F State.reset) = some (.ldImm 10 0x2F#8) ∧
    ∃ t, exec (.ldImm 10 0x2F#8) { ready 0x6A2F State.reset with pc := (ready 0x6A2F State.reset).pc + 2#16 } = .next t :=
  ⟨by decide, by decide, _, rfl⟩
theorem witness_StepRunsDecodedInstruction_fault :
    CanFetch (ready 0x00EE State.reset) ∧ instrAtPc (ready 0x00EE State.reset) = some .ret ∧
    exec .ret { ready 0x00EE State.reset with pc := (ready 0x00EE State.reset).pc + 2#16 } = .fault .stackUnderflow :=
  ⟨by decide, by decide, rfl⟩
theorem witness_UnrecognizedWordIsNoOp :
    CanFetch (ready 0x800F (State.reset.setPc 4094#16)) ∧ instrAtPc (ready 0x800F (State.reset.setPc 4094#16)) = none := by decide
theorem witness_FetchIsBigEndian : (State.reset.setPc 4094#16).pc.toNat + 1 ≤ 4095 := by decide

/-- Each clause of `StepFaultsExactlyWhen` at its boundary, and one below it where the step completes. -/
theorem witness_StepFaultsExactlyWhen :
    (State.reset.setPc 4095#16).fault = none ∧ step (State.reset.setPc 4095#16) = .fault .addressOutOfRange ∧
    faultOf 0xD011 (State.reset.setI 4095#16) = none ∧ faultOf 0xD012 (State.reset.setI 4095#16) = some .addressOutOfRange ∧
    faultOf 0xD010 (State.reset.setI 0xFFFF#16) = none ∧
    faultOf 0xF033 (State.reset.setI 4093#16) = none ∧ faultOf 0xF033 (State.reset.setI 4094#16) = some .addressOutOfRange ∧
    faultOf 0xFF55 (State.reset.setI 4080#16) = none ∧ faultOf 0xFF55 (State.reset.setI 4081#16) = some .addressOutOfRange ∧
    faultOf 0xF065 (State.reset.setI 4095#16) = none ∧ faultOf 0xF065 (State.reset.setI 4096#16) = some .addressOutOfRange ∧
    faultOf 0x2300 (depth 15) = none ∧ faultOf 0x2300 (depth 16) = some .stackOverflow ∧
    faultOf 0x00EE (depth 1) = none ∧ faultOf 0x00EE (depth 0) = some .stackUnderflow :=
  ⟨rfl, rfl, by decide, by decide, by decide, by decide, by decide, by decide, by decide, by decide, by decide, by decide,
    by decide, by decide, by decide⟩

theorem witness_TimersCountInEveryStep :
    (∃ t, step (ready 0x800F (State.reset.setDt 255#8)) = .next t) ∧
    (∀ x, instrAtPc (ready 0x800F (State.reset.setDt 255#8)) ≠ some (.ldDtVx x)) ∧
    (∀ x, instrAtPc (ready 0x800F (State.reset.setDt 255#8)) ≠ some (.ldStVx x)) ∧
    (∃ t, step (ready 0xF015 (regs [(0, 1#8)])) = .next t) ∧ instrAtPc (ready 0xF015 (regs [(0, 1#8)])) = some (.ldDtVx 0) ∧
    (∃ t, step (ready 0xF018 (regs [(0, 0#8)])) = .next t) ∧ instrAtPc (ready 0xF018 (regs [(0, 0#8)])) = some (.ldStVx 0) :=
  ⟨⟨_, rfl⟩, by decide, by decide, ⟨_, rfl⟩, by decide, ⟨_, rfl⟩, by decide⟩

theorem witness_LaunchFetchesFirstWord : ∃ s, launch (0x12#8 :: 0x34#8 :: [0x56#8]) = .ok s := ⟨_, rfl⟩
theorem witness_LoadWritesImage : (List.replicate 3584 1#8).length ≤ 3584 := List.length_replicate.le
theorem witness_TooLargeImageRejected :
    3584 < (List.replicate 3585 1#8).length ∧
    HostTrans State.reset (.load (List.replicate 3585 1#8)) State.reset :=
  have h : 3584 < (List.replicate 3585 1#8).length := by rw [List.length_replicate]; decide
  ⟨h, .loadTooLarge _ _ (if_pos h)⟩
theorem witness_LatchHoldsUntilReset :
    let s := { State.reset with fault := some Fault.stackOverflow }
    s.fault = some .stackOverflow ∧ HostTrans s .reset s.hostReset ∧ HostTrans s .step s ∧
    HostTrans s (.setKeys (Vector.replicate 16 true)) (s.setKeys (Vector.replicate 16 true)) ∧
    HostTrans s (.load [1#8]) (s.setMem (s.mem.writeBytes 0x200 [1#8])) :=
  ⟨rfl, .reset _, .stepLatched _ _ rfl, .setKeys _ _, .load _ _ _ rfl⟩
theorem witness_StepKeepsInvariant :
    Inv (ready 0x2300 (State.reset.setPc 4094#16)) ∧ ∃ t, step (ready 0x2300 (State.reset.setPc 4094#16)) = .next t :=
  ⟨by decide, _, rfl⟩
/-- Every kind of host move from a state that meets the invariant, a faulting step among them. -/
theorem witness_HostMovesKeepInvariant :
    Inv State.reset ∧ HostTrans State.reset .reset State.reset.hostReset ∧
    HostTrans State.reset (.load [1#8]) (State.reset.setMem (State.reset.mem.writeBytes 0x200 [1#8])) ∧
    (∃ t, HostTrans State.reset .step t) ∧
    Inv (State.reset.setPc 4095#16) ∧
    HostTrans (State.reset.setPc 4095#16) .step { State.reset with fault := some .addressOutOfRange, pc := 0xFFFF#16 } :=
  ⟨by decide, .reset _, .load _ _ _ rfl, ⟨_, .stepNext _ _ rfl⟩, by decide,
    .stepFaults _ _ .addressOutOfRange rfl rfl rfl (by decide) rfl⟩

theorem witness_SoundTimerIsUnread :
    (∃ t, step (ready 0xF018 State.reset) = .next t) ∧ step (ready 0x00EE State.reset) = .fault .stackUnderflow :=
  ⟨⟨_, rfl⟩, rfl⟩
theorem witness_OnlyKeyInstructionsReadKeys :
    ¬ ReadsKeys (.call 0#12) ∧ (∃ t, exec (.call 0#12) (depth 15) = .next t) ∧
    exec (.call 0#12) (depth 16) = .fault .stackOverflow :=
  ⟨id, ⟨_, rfl⟩, rfl⟩
theorem witness_VfWritersOnly :
    ∃ t, exec (.addReg 1 2) (regs [(1, 255#8), (2, 1#8)]) = .next t ∧ t.reg 15 ≠ (regs [(1, 255#8), (2, 1#8)]).reg 15 :=
  ⟨_, rfl, by decide⟩
/-- For each clause an instruction that changes that piece of state. -/
theorem witness_OnlyNamedInstructionsWrite :
    (∃ t, exec (.ldI 1#12) State.reset = .next t ∧ t.i ≠ State.reset.i) ∧
    (∃ t, exec (.jp 1#12) State.reset = .next t ∧ t.pc ≠ State.reset.pc) ∧
    (∃ t, exec (.call 1#12) State.reset = .next t ∧ t.sp ≠ State.reset.sp) ∧
    (∃ t, exec (.ldDtVx 1) (regs [(1, 1#8)]) = .next t ∧ t.dt ≠ (regs [(1, 1#8)]).dt) ∧
    (∃ t, exec (.ldStVx 1) (regs [(1, 1#8)]) = .next t ∧ t.st ≠ (regs [(1, 1#8)]).st) ∧
    (∃ t, exec (.drw 1 1 1) (sprite State.reset [0x80#8]) = .next t ∧ t.fb ≠ (sprite State.reset [0x80#8]).fb) ∧
    (∃ t, exec (.ldB 0) ((regs [(0, 1#8)]).setI 4093#16) = .next t ∧ t.mem.read 4095 ≠ ((regs [(0, 1#8)]).setI 4093#16).mem.read 4095) ∧
    (∃ t, exec (.rnd 0 1#8) State.reset = .next t ∧ t.draws ≠ State.reset.draws) :=
  ⟨⟨_, rfl, by decide⟩, ⟨_, rfl, by decide⟩, ⟨_, rfl, by decide⟩, ⟨_, rfl, by decide⟩, ⟨_, rfl, by decide⟩,
    ⟨_, rfl, by decide⟩, ⟨_, rfl, by decide⟩, ⟨_, rfl, by decide⟩⟩
theorem witness_StoreSeenByNextFetch :
    1 ≤ (15 : Reg).val ∧ ∃ t, exec (.stRegs 15) (State.reset.setI 4080#16) = .next t := ⟨by decide, _, rfl⟩
theorem witness_SelfJumpIdles :
    CanFetch (ready 0x1200 State.reset) ∧ instrAtPc (ready 0x1200 State.reset) = some (.jp 0x200#12) ∧
    (0x200#12 : Addr).toNat = (ready 0x1200 State.reset).pc.toNat := by decide

theorem witness_RetPopsIntoPc : 0 < (depth 1).sp.val ∧ 0 < (depth 16).sp.val ∧ (15 : Fin 16).val + 1 = (depth 16).sp.val := by
  decide
theorem witness_CallPushesAdvancedPc : (depth 0).sp.val < 16 ∧ (depth 15).sp.val < 16 := by decide
theorem witness_CallThenReturnResumes : ∃ t, exec (.call 0x300#12) (depth 15) = .next t := ⟨_, rfl⟩
/-- A destination that is not VF, for the clause on the result; the flag clause holds for every destination. -/
theorem witness_flag_writers_destination : (1 : Reg) ≠ 15 ∧ (14 : Reg) ≠ 15 := by decide
theorem witness_RandomByteIsMasked : (0x0F#8).getLsbD 7 = false := by decide
theorem witness_DecimalDigitsStored : (State.reset.setI 4093#16).i.toNat + 2 ≤ 4095 := by decide
theorem witness_RegistersStored : (State.reset.setI 4080#16).i.toNat + (15 : Reg).val ≤ 4095 := by decide
theorem witness_RegistersLoaded :
    (State.reset.setI 4095#16).i.toNat + (0 : Reg).val ≤ 4095 ∧ (0 : Reg) ≤ 0 ∧ (0 : Reg) < 15 := by decide
theorem witness_StoreThenLoadRestoresRegisters :
    ∃ t, exec (.stRegs 2) (regs [(0, 1#8), (2, 3#8)]) = .next t ∧
      (State.reset.setMem t.mem).mem = t.mem ∧ (State.reset.setMem t.mem).i = (regs [(0, 1#8), (2, 3#8)]).i :=
  ⟨_, rfl, rfl, rfl⟩
/-- Both disjuncts of the range, the largest sprite at the top of memory among them, and both values of VF. -/
theorem witness_DrawInvertsSpritePixels :
    ((0 : Nat) = 0 ∨ (State.reset.setI 0xFFFF#16).i.toNat + 0 - 1 ≤ 4095) ∧
    ((15 : Nat) = 0 ∨ (State.reset.setI 4081#16).i.toNat + 15 - 1 ≤ 4095) ∧
    SpriteOn 1 2 1 (sprite (regs [(1, 63#8), (2, 31#8)]) [0x80#8]) 63 31 :=
  ⟨by decide, by decide, 0, 0, by decide⟩
theorem witness_DrawTwiceCancels :
    (1 : Reg) ≠ 15 ∧ (2 : Reg) ≠ 15 ∧
    (∃ t, exec (.drw 1 2 1) (sprite (regs [(1, 63#8), (2, 31#8)]) [0x80#8]) = .next t) ∧
    (∀ px py, (sprite (regs [(1, 63#8), (2, 31#8)]) [0x80#8]).fb.pixel px py = false) ∧
    ∃ px py, SpriteOn 1 2 1 (sprite (regs [(1, 63#8), (2, 31#8)]) [0x80#8]) px py :=
  ⟨by decide, by decide, ⟨_, rfl⟩,
    fun px py => by
      show Framebuffer.pixel Framebuffer.blank px py = false
      unfold Framebuffer.pixel Framebuffer.blank
      split <;> simp,
    63, 31, 0, 0, by decide⟩
theorem witness_KeySkipsTestMaskedKey : (10 : Fin 16).val = ((regs [(2, 0x1A#8)]).reg 2).toNat % 16 := by decide
theorem witness_KeyWaitTakesLeastKey :
    (pressing (pressing State.reset 15) 2).key 2 = true ∧
    (∀ j : Fin 16, j < 2 → (pressing (pressing State.reset 15) 2).key j = false) ∧
    (∀ k, State.reset.key k = false) := by decide
theorem witness_KeyWaitReplays :
    CanFetch (ready 0xF20A State.reset) ∧ instrAtPc (ready 0xF20A State.reset) = some (.ldVxK 2) ∧
    ∀ k, (ready 0xF20A State.reset).key k = false := by decide
theorem witness_TimerAccessSteps :
    CanFetch (ready 0xF107 State.reset) ∧ instrAtPc (ready 0xF107 State.reset) = some (.ldVxDt 1) ∧
    instrAtPc (ready 0xF115 State.reset) = some (.ldDtVx 1) ∧ instrAtPc (ready 0xF118 State.reset) = some (.ldStVx 1) := by
  decide

end Sys2Proof.Tests
end

section
/-! SUPPORT. The fields of the instruction word (R81) as arithmetic on its number, which byte of a fetched word holds which
field (R53), and the statement about the fetch that rests on them. -/

namespace Sys2Proof

open Sys2Proof.Machine

/-! ### The fields as numbers (R81) -/

theorem toNat_fieldFam (w : Word) : (fieldFam w).toNat = w.toNat / 4096 := by
  have hw : w.toNat < 65536 := w.isLt
  simp only [fieldFam, BitVec.extractLsb'_toNat, Nat.shiftRight_eq_div_pow]
  omega

theorem val_fieldX (w : Word) : (fieldX w).val = w.toNat / 256 % 16 := by
  simp [fieldX, Nat.shiftRight_eq_div_pow]

theorem val_fieldY (w : Word) : (fieldY w).val = w.toNat / 16 % 16 := by
  simp [fieldY, Nat.shiftRight_eq_div_pow]

theorem toNat_fieldN (w : Word) : (fieldN w).toNat = w.toNat % 16 := by
  simp [fieldN]

theorem toNat_fieldKK (w : Word) : (fieldKK w).toNat = w.toNat % 256 := by
  simp [fieldKK]

/-! ### The two bytes of the word (R53) -/

theorem toNat_wordOfBytes (hi lo : Byte) : (wordOfBytes hi lo).toNat = hi.toNat * 256 + lo.toNat := by
  simp only [wordOfBytes, BitVec.toNat_append]
  rw [← Nat.shiftLeft_add_eq_or_of_lt lo.isLt, Nat.shiftLeft_eq]

theorem highByte_eq_fam_x (hi lo : Byte) :
    hi.toNat = (fieldFam (wordOfBytes hi lo)).toNat * 16 + (fieldX (wordOfBytes hi lo)).val := by
  have hlo : lo.toNat < 256 := lo.isLt
  rw [toNat_fieldFam, val_fieldX, toNat_wordOfBytes]
  omega

theorem fieldKK_wordOfBytes (hi lo : Byte) : fieldKK (wordOfBytes hi lo) = lo := by
  have hlo : lo.toNat < 256 := lo.isLt
  apply BitVec.eq_of_toNat_eq
  rw [toNat_fieldKK, toNat_wordOfBytes]
  omega

theorem fieldKK_eq_y_n (w : Word) : (fieldKK w).toNat = (fieldY w).val * 16 + (fieldN w).toNat := by
  rw [toNat_fieldKK, val_fieldY, toNat_fieldN]
  omega

/-! ### The fetch -/

/-- Settles O8: below the end of memory the fetch answers the word of the two bytes at `pc`, whose high byte is the family
and `x` and whose low byte is `kk`, that is `y` and `n`. -/
theorem fetchIsBigEndian : Obligations.FetchIsBigEndian := by
  unfold Obligations.FetchIsBigEndian
  intro s hpc
  obtain ⟨-, hfetch⟩ | ⟨hpast, -⟩ := State.fetch_cases s
  · have hkk := fieldKK_wordOfBytes (s.mem.read s.pc.toNat) (s.mem.read (s.pc.toNat + 1))
    have hyn := fieldKK_eq_y_n (wordOfBytes (s.mem.read s.pc.toNat) (s.mem.read (s.pc.toNat + 1)))
    rw [hkk] at hyn
    exact ⟨_, hfetch, toNat_wordOfBytes _ _, highByte_eq_fam_x _ _, hkk.symm, hyn⟩
  · omega

end Sys2Proof
end

section
/-! SUPPORT. The step on a word that selects no instruction (R105): a fetch that succeeds answers the word at `pc`, and when
it decodes to nothing the step is the advance of R102 followed by the timer phase of R106. -/

namespace Sys2Proof

open Sys2Proof.Machine Sys2Proof.Safety

/-! ### The fetch and the advance from a state that can fetch -/

theorem fetch_eq_wordAtPc {s : State} (hpc : s.pc.toNat ≤ 4094) : s.fetch = .ok (wordAtPc s) := by
  obtain ⟨-, hfetch⟩ | ⟨hpast, -⟩ := State.fetch_cases s
  · exact hfetch
  · omega

/-- The advance of R102 does not wrap where a fetch succeeds. -/
theorem toNat_advancePc_pc {s : State} (hpc : s.pc.toNat ≤ 4094) : s.advancePc.pc.toNat = s.pc.toNat + 2 := by
  rw [State.advancePc_pc, BitVec.toNat_add, BitVec.toNat_ofNat]
  omega

/-! ### The step of the no-op -/

theorem step_of_instrAtPc_none {s : State} (hs : CanFetch s) (hi : instrAtPc s = none) :
    step s = .next s.advancePc.tickTimers := by
  obtain ⟨hfault, hpc⟩ := hs
  have hdecode : decode (wordAtPc s) = none := hi
  simp [step, hfault, fetch_eq_wordAtPc hpc, hdecode, execUnrecognized, finishStep]

theorem frame_advancePc_tickTimers (s : State) :
    Frame { pc := true, dt := true, st := true } s s.advancePc.tickTimers := by
  simp [Frame]

/-- Settles O7: the step is the advance, whose sum does not wrap at `pc` up to 4094, and the timer phase. -/
theorem unrecognizedWordIsNoOp : Obligations.UnrecognizedWordIsNoOp := by
  unfold Obligations.UnrecognizedWordIsNoOp
  intro s hs hi
  have hstep := step_of_instrAtPc_none hs hi
  obtain ⟨-, hpc⟩ := hs
  exact ⟨s.advancePc.tickTimers, hstep, toNat_advancePc_pc hpc,
    tick_toNat s.dt, tick_toNat s.st, frame_advancePc_tickTimers s⟩

end Sys2Proof
end

section
/-! SUPPORT. Instructions that write `pc` and nothing else: the absolute jump (R121) and the conditional skips, whose one
argument, that the condition alone decides between `pc` and 2 more, is said once for every skip (R80, R123 to R126). -/

namespace Sys2Proof

open Sys2Proof.Machine Sys2Proof.Safety

/-! ### A write to `pc` -/

theorem frame_setPc (s : State) (w : Word) : Frame { pc := true } s (s.setPc w) := by
  simp [Frame]

/-- The address of R84 is zero-extended, so no target is changed by widening it. -/
theorem toNat_absAddr (nnn : Addr) : (absAddr nnn).toNat = nnn.toNat :=
  BitVec.toNat_setWidth_of_le (by decide)

/-- Settles O30: the handler writes the zero-extended address to `pc`, and that is its only write. -/
theorem jumpSetsPc : Obligations.JumpSetsPc := by
  unfold Obligations.JumpSetsPc
  intro nnn s
  have hexec : exec (.jp nnn) s = .next (s.setPc (absAddr nnn)) := rfl
  exact ⟨s.setPc (absAddr nnn), hexec, toNat_absAddr nnn, frame_setPc s _⟩

/-! ### The conditional skips -/

theorem frame_skipIf (s : State) (c : Bool) : Frame { pc := true } s (s.skipIf c) := by
  rw [State.skipIf_eq]
  exact frame_setPc s _

theorem toNat_skipIf_pc (s : State) {c : Bool} {P : Prop} [Decidable P] (hc : c = true ↔ P) :
    (s.skipIf c).pc.toNat = if P then (s.pc.toNat + 2) % 65536 else s.pc.toNat := by
  rw [State.skipIf_pc]
  by_cases hP : P
  · rw [if_pos hP, if_pos (hc.2 hP)]
    exact BitVec.toNat_add s.pc 2#16
  · rw [if_neg hP, if_neg (mt hc.1 hP)]

/-- An instruction that skips on a Boolean test of `P` completes, is 2 bytes further on exactly when `P` holds, and writes
`pc` only. -/
theorem skip_completes {i : Instr} {s : State} {c : Bool} {P : Prop} [Decidable P]
    (hexec : exec i s = .next (s.skipIf c)) (hc : c = true ↔ P) :
    ∃ t, exec i s = .next t ∧ t.pc.toNat = (if P then (s.pc.toNat + 2) % 65536 else s.pc.toNat) ∧
      Frame { pc := true } s t :=
  ⟨s.skipIf c, hexec, toNat_skipIf_pc s hc, frame_skipIf s c⟩

/-- Settles O32: each form is a skip, on the Boolean equality or inequality of the two operands it compares. -/
theorem skipsCompareOperands : Obligations.SkipsCompareOperands := by
  unfold Obligations.SkipsCompareOperands
  intro x y kk s
  have hSeImm : exec (.seImm x kk) s = .next (s.skipIf (s.reg x == kk)) := rfl
  have hSneImm : exec (.sneImm x kk) s = .next (s.skipIf (s.reg x != kk)) := rfl
  have hSeReg : exec (.seReg x y) s = .next (s.skipIf (s.reg x == s.reg y)) := rfl
  have hSneReg : exec (.sneReg x y) s = .next (s.skipIf (s.reg x != s.reg y)) := rfl
  exact ⟨skip_completes hSeImm beq_iff_eq, skip_completes hSneImm bne_iff_ne,
    skip_completes hSeReg beq_iff_eq, skip_completes hSneReg bne_iff_ne⟩

end Sys2Proof
end

section
/-! SUPPORT. Instructions that write general registers and nothing else: one destination (R142 to R144), or a result and then
a flag in `VF` (R141). What such a write leaves unchanged is said once for every instruction of the kind. -/

namespace Sys2Proof

open Sys2Proof.Machine Sys2Proof.Safety

/-! ### A write to one register -/

theorem frame_setReg (s : State) (x : Reg) (b : Byte) : Frame { regs := [x] } s (s.setReg x b) := by
  simp +contextual [Frame]

/-- Settles O33: each handler is one write to `V[x]`, of `kk`, of the sum modulo 256, and of `V[y]`. -/
theorem plainRegisterForms : Obligations.PlainRegisterForms := by
  unfold Obligations.PlainRegisterForms
  intro x y kk s
  have hLdImm : exec (.ldImm x kk) s = .next (s.setReg x kk) := rfl
  have hAddImm : exec (.addImm x kk) s = .next (s.setReg x (s.reg x + kk)) := rfl
  have hLdReg : exec (.ldReg x y) s = .next (s.setReg x (s.reg y)) := rfl
  have hsum : ((s.setReg x (s.reg x + kk)).reg x).toNat = ((s.reg x).toNat + kk.toNat) % 256 := by
    rw [State.setReg_reg_same, BitVec.toNat_add]
  exact ⟨⟨_, hLdImm, State.setReg_reg_same s x kk, frame_setReg s x _⟩,
    ⟨_, hAddImm, hsum, frame_setReg s x _⟩,
    ⟨_, hLdReg, State.setReg_reg_same s x _, frame_setReg s x _⟩⟩

/-! ### A result and then the flag -/

theorem frame_writeResultFlag (s : State) (x : Reg) (result : Byte) (flag : Bool) :
    Frame { regs := [x, VF] } s (s.writeResultFlag x result flag) := by
  simp +contextual [Frame, State.writeResultFlag_reg]

/-- The flag is written last, so it stands in `VF` for every `x`. -/
theorem writeResultFlag_reg_VF (s : State) (x : Reg) (result : Byte) (flag : Bool) :
    (s.writeResultFlag x result flag).reg VF = flagByte flag := by
  rw [State.writeResultFlag_reg, if_pos rfl]

theorem writeResultFlag_reg_result (s : State) {x : Reg} (hx : x ≠ VF) (result : Byte) (flag : Bool) :
    (s.writeResultFlag x result flag).reg x = result := by
  rw [State.writeResultFlag_reg, if_neg hx, if_pos rfl]

theorem toNat_flagByte {f : Bool} {P : Prop} [Decidable P] (hf : f = true ↔ P) :
    (flagByte f).toNat = if P then 1 else 0 := by
  by_cases hP : P
  · rw [if_pos hP, hf.2 hP]
    rfl
  · rw [if_neg hP, Bool.eq_false_of_not_eq_true (mt hf.1 hP)]
    rfl

/-- An instruction that writes a result and the flag of `P` completes, leaves the result in `V[x]` unless `x` is 15, leaves
1 in `VF` exactly when `P` holds, and writes no more than the two registers. -/
theorem resultFlag_completes {i : Instr} {s : State} {x : Reg} {result : Byte} {flag : Bool} {n : Nat} {P : Prop}
    [Decidable P] (hexec : exec i s = .next (s.writeResultFlag x result flag)) (hresult : result.toNat = n)
    (hflag : flag = true ↔ P) :
    ∃ t, exec i s = .next t ∧ (x ≠ VF → (t.reg x).toNat = n) ∧ (t.reg VF).toNat = (if P then 1 else 0) ∧
      Frame { regs := [x, VF] } s t := by
  refine ⟨s.writeResultFlag x result flag, hexec, fun hx => ?_, ?_, frame_writeResultFlag s x result flag⟩
  · rw [writeResultFlag_reg_result s hx, hresult]
  · rw [writeResultFlag_reg_VF, toNat_flagByte hflag]

theorem carryOut_iff (a b : Byte) : carryOut a b = true ↔ a.toNat + b.toNat > 255 :=
  decide_eq_true_iff

/-- Settles O35: the handler writes the sum and then the carry, both computed from the old values. -/
theorem addSetsCarry : Obligations.AddSetsCarry := by
  unfold Obligations.AddSetsCarry
  intro x y s
  have hexec : exec (.addReg x y) s =
      .next (s.writeResultFlag x (s.reg x + s.reg y) (carryOut (s.reg x) (s.reg y))) := rfl
  exact resultFlag_completes hexec (BitVec.toNat_add _ _) (carryOut_iff _ _)

end Sys2Proof
end

section
/-! SUPPORT. Instructions that write the index register and nothing else (R170). -/

namespace Sys2Proof

open Sys2Proof.Machine Sys2Proof.Safety

/-! ### A write to `I` -/

theorem frame_setI (s : State) (w : Word) : Frame { i := true } s (s.setI w) := by
  simp [Frame]

/-- Settles O39: the handler writes the zero-extended address to `I`, and that is its only write. -/
theorem loadIndexSetsI : Obligations.LoadIndexSetsI := by
  unfold Obligations.LoadIndexSetsI
  intro nnn s
  have hexec : exec (.ldI nnn) s = .next (s.setI (absAddr nnn)) := rfl
  exact ⟨s.setI (absAddr nnn), hexec, toNat_absAddr nnn, frame_setI s _⟩

end Sys2Proof
end

section
/-! SUPPORT. Instructions that write the framebuffer and nothing else (R190). -/

namespace Sys2Proof

open Sys2Proof.Machine Sys2Proof.Safety

/-! ### A write to the framebuffer -/

theorem frame_setFb (s : State) (f : Framebuffer) : Frame { fb := true } s (s.setFb f) := by
  simp [Frame]

/-- Settles O45: the handler writes the blank framebuffer, in which every pixel is off, and that is its only write. -/
theorem clearTurnsAllPixelsOff : Obligations.ClearTurnsAllPixelsOff := by
  unfold Obligations.ClearTurnsAllPixelsOff
  intro s
  have hexec : exec .cls s = .next (s.setFb Framebuffer.blank) := rfl
  have hoff : ∀ px py, (s.setFb Framebuffer.blank).fb.pixel px py = false := fun px py => by
    rw [State.setFb_fb, Framebuffer.pixel_blank]
  exact ⟨s.setFb Framebuffer.blank, hexec, hoff, frame_setFb s _⟩

end Sys2Proof
end

section
/-! SUPPORT. The key an instruction names, the low four bits of `V[x]` (R210), and the two skips that test it. -/

namespace Sys2Proof

open Sys2Proof.Machine

/-! ### The key operand -/

theorem val_keyOperand (s : State) (x : Reg) : (s.keyOperand x).val = (s.reg x).toNat % 16 :=
  BitVec.toNat_setWidth 4 (s.reg x)

/-- Settles O48: each form is a skip on key `k`, which is the key operand because both numbers are `V[x] mod 16`. -/
theorem keySkipsTestMaskedKey : Obligations.KeySkipsTestMaskedKey := by
  unfold Obligations.KeySkipsTestMaskedKey
  intro x k s hk
  obtain rfl : k = s.keyOperand x := Fin.ext (hk.trans (val_keyOperand s x).symm)
  have hSkp : exec (.skp x) s = .next (s.skipIf (s.key (s.keyOperand x))) := rfl
  have hSknp : exec (.sknp x) s = .next (s.skipIf (!s.key (s.keyOperand x))) := rfl
  exact ⟨skip_completes hSkp Iff.rfl, skip_completes hSknp (iff_of_eq (Bool.not_eq_true' _))⟩

end Sys2Proof
end

section
/-! SUPPORT. The faults of the handlers (R231 to R233): for each handler that can raise one, exactly when it raises which, and
from these the one law of `exec`, that the faults it answers are those of `HandlerFault`. -/

namespace Sys2Proof

open Sys2Proof.Machine Sys2Proof.Certificates

/-! ### The call-stack handlers (R232, R233) -/

theorem execRet_fault_iff (s : State) (k : Fault) :
    execRet s = .fault k ↔ k = .stackUnderflow ∧ s.sp.val = 0 := by
  obtain ⟨hsp, hpop⟩ | ⟨hsp, hpop⟩ := s.pop_cases
  · simp [execRet, hpop, hsp.ne']
  · simp [execRet, hpop, raise, hsp, eq_comm]

theorem execCall_fault_iff (nnn : Addr) (s : State) (k : Fault) :
    execCall nnn s = .fault k ↔ k = .stackOverflow ∧ s.sp.val = 16 := by
  obtain ⟨hsp, hpush⟩ | ⟨hsp, hpush⟩ := s.push_cases s.pc
  · simp [execCall, hpush, hsp.ne]
  · simp [execCall, hpush, raise, hsp, eq_comm]

/-! ### The handlers that address memory through `I` (R231) -/

theorem readRange_error_iff (s : State) (a n : Nat) (k : Fault) :
    s.readRange a n = .error k ↔ k = .addressOutOfRange ∧ 0 < n ∧ 4095 < a + n - 1 := by
  obtain ⟨hin, hread⟩ | ⟨hout, hread⟩ := s.readRange_cases a n
  · have hrange : ¬ (0 < n ∧ 4095 < a + n - 1) := by omega
    simp only [hread, hrange, and_false, reduceCtorEq]
  · have hrange : 0 < n ∧ 4095 < a + n - 1 := by omega
    simp only [hread, hrange, and_self, and_true, Except.error.injEq, eq_comm]

theorem writeRange_error_iff (s : State) (a : Nat) (bs : List Byte) (k : Fault) :
    s.writeRange a bs = .error k ↔ k = .addressOutOfRange ∧ 0 < bs.length ∧ 4095 < a + bs.length - 1 := by
  obtain ⟨hin, hwrite⟩ | ⟨hout, hwrite⟩ := s.writeRange_cases a bs
  · have hrange : ¬ (0 < bs.length ∧ 4095 < a + bs.length - 1) := by omega
    simp only [hwrite, hrange, and_false, reduceCtorEq]
  · have hrange : 0 < bs.length ∧ 4095 < a + bs.length - 1 := by omega
    simp only [hwrite, hrange, and_self, and_true, Except.error.injEq, eq_comm]

theorem execDrw_fault_iff (x y : Reg) (n : Nat) (s : State) (k : Fault) :
    execDrw x y n s = .fault k ↔ k = .addressOutOfRange ∧ 0 < n ∧ 4095 < s.i.toNat + n - 1 := by
  rw [← readRange_error_iff s, execDrw, State.base]
  cases s.readRange s.i.toNat n <;> simp [raise]

theorem execLdRegs_fault_iff (x : Reg) (s : State) (k : Fault) :
    execLdRegs x s = .fault k ↔ k = .addressOutOfRange ∧ 4095 < s.i.toNat + x.val := by
  have herror := readRange_error_iff s s.i.toNat (x.val + 1) k
  rw [execLdRegs, State.base]
  cases hread : s.readRange s.i.toNat (x.val + 1) <;> simpa [hread, raise] using herror

theorem execLdB_fault_iff (x : Reg) (s : State) (k : Fault) :
    execLdB x s = .fault k ↔ k = .addressOutOfRange ∧ 4095 < s.i.toNat + 2 := by
  have herror := writeRange_error_iff s s.i.toNat (decimalDigits (s.reg x)) k
  have hlength : (decimalDigits (s.reg x)).length = 3 := rfl
  rw [execLdB, State.base]
  cases hwrite : s.writeRange s.i.toNat (decimalDigits (s.reg x)) <;>
    simpa [hwrite, hlength, raise] using herror

theorem execStRegs_fault_iff (x : Reg) (s : State) (k : Fault) :
    execStRegs x s = .fault k ↔ k = .addressOutOfRange ∧ 4095 < s.i.toNat + x.val := by
  have herror := writeRange_error_iff s s.i.toNat (s.regsUpTo x) k
  rw [execStRegs, State.base]
  cases hwrite : s.writeRange s.i.toNat (s.regsUpTo x) <;> simpa [hwrite, raise] using herror

/-! ### Every handler -/

theorem next_ne_fault (t : State) (k : Fault) : (.next t : Result) ≠ .fault k := nofun

/-- The key wait has two outcomes, and neither is a fault (R213). -/
theorem execLdVxK_not_fault (x : Reg) (s : State) (k : Fault) : execLdVxK x s ≠ .fault k := by
  rw [execLdVxK]
  cases s.leastKey <;> exact next_ne_fault _ k

/-- `HandlerFault` is exactly the fault behaviour of `exec`: the six handlers with a fault are those above, the key wait has
none, and every other handler is `.next` of one state by its definition. -/
theorem exec_fault_iff (i : Instr) (s : State) (k : Fault) : exec i s = .fault k ↔ HandlerFault i s k := by
  cases i with
  | ret => exact execRet_fault_iff s k
  | call nnn => exact execCall_fault_iff nnn s k
  | drw x y n => exact execDrw_fault_iff x y n s k
  | ldB x => exact execLdB_fault_iff x s k
  | stRegs x => exact execStRegs_fault_iff x s k
  | ldRegs x => exact execLdRegs_fault_iff x s k
  | ldVxK x => exact iff_false_intro (execLdVxK_not_fault x s k)
  | _ => exact iff_false_intro (next_ne_fault _ k)

theorem handlerFault_stackOverflow_iff (i : Instr) (s : State) :
    HandlerFault i s .stackOverflow ↔ (∃ nnn, i = .call nnn) ∧ s.sp.val = 16 := by
  cases i <;> simp [HandlerFault]

theorem handlerFault_stackUnderflow_iff (i : Instr) (s : State) :
    HandlerFault i s .stackUnderflow ↔ i = .ret ∧ s.sp.val = 0 := by
  cases i <;> simp [HandlerFault]

/-- Settles O10: the faults of `exec` are those of `HandlerFault`, which names each stack fault for one instruction only. -/
theorem stackFaultsExactlyWhen : Obligations.StackFaultsExactlyWhen := by
  unfold Obligations.StackFaultsExactlyWhen
  intro i s
  exact ⟨(exec_fault_iff i s _).trans (handlerFault_stackOverflow_iff i s),
    (exec_fault_iff i s _).trans (handlerFault_stackUnderflow_iff i s)⟩

end Sys2Proof
end

section
/-! SUPPORT. The host's `load` (R66, R234): the one bound on the length of an image, and what the host's move can do. -/

namespace Sys2Proof

open Sys2Proof.Machine

/-! ### What `load` answers -/

/-- The program space 0x200 to 0xFFF takes 3584 bytes; a longer image is rejected and any other is written (R66). -/
theorem load_cases (s : State) (bytes : List Byte) :
    3584 < bytes.length ∧ s.load bytes = .imageTooLarge ∨
    bytes.length ≤ 3584 ∧ s.load bytes = .ok (s.setMem (s.mem.writeBytes 0x200 bytes)) := by
  unfold State.load
  split
  · exact .inl ⟨‹_›, rfl⟩
  · exact .inr ⟨by omega, rfl⟩

theorem load_eq_imageTooLarge_iff (s : State) (bytes : List Byte) :
    s.load bytes = .imageTooLarge ↔ 3584 < bytes.length := by
  obtain ⟨hlong, hload⟩ | ⟨hfits, hload⟩ := load_cases s bytes
  · exact iff_of_true hload hlong
  · simp [hload, hfits]

/-! ### The host's move -/

/-- The move to load an image ends in the state that `load` answers, or in the same state when it answers none. -/
theorem hostTrans_load_cases {s t : State} {bytes : List Byte} (h : HostTrans s (.load bytes) t) :
    s.load bytes = .ok t ∨ s.load bytes = .imageTooLarge ∧ t = s := by
  cases h with
  | load _ _ hload => exact .inl hload
  | loadTooLarge _ hload => exact .inr ⟨hload, rfl⟩

/-- Settles O16: `load` rejects exactly the images beyond the bound, and the move on a rejected image ends where it began. -/
theorem tooLargeImageRejected : Obligations.TooLargeImageRejected := by
  unfold Obligations.TooLargeImageRejected
  intro s bytes
  refine ⟨load_eq_imageTooLarge_iff s bytes, fun hlong t ht => ?_⟩
  have hrejected := (load_eq_imageTooLarge_iff s bytes).2 hlong
  obtain hok | ⟨-, rfl⟩ := hostTrans_load_cases ht
  · rw [hrejected] at hok
    nomatch hok
  · rfl

end Sys2Proof
end

section
/-! SUPPORT. The encoder against the decoder (R82, R85): each field of a word that a format built is the field it was built
from, so decoding the canonical word of an instruction gives the instruction back, operands included. -/

namespace Sys2Proof

/-! ### The fields of an encoded word -/

/-- Appending is positional: the left part counts in units of the width of the right part. -/
theorem toNat_append_eq_mul_add {m n : Nat} (a : BitVec m) (b : BitVec n) :
    (a ++ b).toNat = a.toNat * 2 ^ n + b.toNat := by
  rw [BitVec.toNat_append, ← Nat.shiftLeft_add_eq_or_of_lt b.isLt, Nat.shiftLeft_eq]

theorem toNat_formatA (fam : BitVec 4) (nnn : Addr) :
    (formatA fam nnn).toNat = fam.toNat * 4096 + nnn.toNat :=
  toNat_append_eq_mul_add fam nnn

theorem toNat_formatXK (fam : BitVec 4) (x : Reg) (kk : Byte) :
    (formatXK fam x kk).toNat = fam.toNat * 4096 + x.val * 256 + kk.toNat := by
  simp only [formatXK, toNat_append_eq_mul_add, BitVec.toNat_ofFin]
  omega

theorem toNat_formatXY (fam : BitVec 4) (x y : Reg) (n : BitVec 4) :
    (formatXY fam x y n).toNat = fam.toNat * 4096 + x.val * 256 + y.val * 16 + n.toNat := by
  simp only [formatXY, toNat_append_eq_mul_add, BitVec.toNat_ofFin]
  omega

theorem toNat_fieldNNN (w : Word) : (fieldNNN w).toNat = w.toNat % 4096 := by
  simp [fieldNNN]

@[simp] theorem fieldFam_formatA (fam : BitVec 4) (nnn : Addr) : fieldFam (formatA fam nnn) = fam := by
  apply BitVec.eq_of_toNat_eq
  rw [toNat_fieldFam, toNat_formatA]
  omega

@[simp] theorem fieldNNN_formatA (fam : BitVec 4) (nnn : Addr) : fieldNNN (formatA fam nnn) = nnn := by
  apply BitVec.eq_of_toNat_eq
  rw [toNat_fieldNNN, toNat_formatA]
  omega

@[simp] theorem fieldFam_formatXK (fam : BitVec 4) (x : Reg) (kk : Byte) : fieldFam (formatXK fam x kk) = fam := by
  apply BitVec.eq_of_toNat_eq
  rw [toNat_fieldFam, toNat_formatXK]
  omega

@[simp] theorem fieldX_formatXK (fam : BitVec 4) (x : Reg) (kk : Byte) : fieldX (formatXK fam x kk) = x := by
  apply Fin.ext
  rw [val_fieldX, toNat_formatXK]
  omega

@[simp] theorem fieldKK_formatXK (fam : BitVec 4) (x : Reg) (kk : Byte) : fieldKK (formatXK fam x kk) = kk := by
  apply BitVec.eq_of_toNat_eq
  rw [toNat_fieldKK, toNat_formatXK]
  omega

/-- The low nibble of a word of format XE is that of its sub-selector (R83). -/
@[simp] theorem fieldN_formatXK (fam : BitVec 4) (x : Reg) (kk : Byte) :
    fieldN (formatXK fam x kk) = kk.setWidth 4 := by
  apply BitVec.eq_of_toNat_eq
  rw [toNat_fieldN, toNat_formatXK, BitVec.toNat_setWidth]
  omega

@[simp] theorem fieldFam_formatXY (fam : BitVec 4) (x y : Reg) (n : BitVec 4) : fieldFam (formatXY fam x y n) = fam := by
  apply BitVec.eq_of_toNat_eq
  rw [toNat_fieldFam, toNat_formatXY]
  omega

@[simp] theorem fieldX_formatXY (fam : BitVec 4) (x y : Reg) (n : BitVec 4) : fieldX (formatXY fam x y n) = x := by
  apply Fin.ext
  rw [val_fieldX, toNat_formatXY]
  omega

@[simp] theorem fieldY_formatXY (fam : BitVec 4) (x y : Reg) (n : BitVec 4) : fieldY (formatXY fam x y n) = y := by
  apply Fin.ext
  rw [val_fieldY, toNat_formatXY]
  omega

@[simp] theorem fieldN_formatXY (fam : BitVec 4) (x y : Reg) (n : BitVec 4) : fieldN (formatXY fam x y n) = n := by
  apply BitVec.eq_of_toNat_eq
  rw [toNat_fieldN, toNat_formatXY]
  omega

/-! ### The round trip -/

/-- With DECODE_ALIASES = family_subselector the decoder is the selection of R83 (D2, log 6). -/
theorem decode_eq_decodeBySelector (w : Word) : decode w = decodeBySelector w := rfl

/-- Settles O2: the family and the sub-selector of the encoded word select the instruction's own arm, and the operands read
there are those encoded; a row count below 16 is not truncated by its field. -/
theorem decodeEncodeRoundTrip : Obligations.DecodeEncodeRoundTrip := by
  unfold Obligations.DecodeEncodeRoundTrip
  intro i hwf
  rw [decode_eq_decodeBySelector]
  cases i with
  | cls => decide
  | ret => decide
  | jp nnn => simp [encode, decodeBySelector]
  | call nnn => simp [encode, decodeBySelector]
  | ldI nnn => simp [encode, decodeBySelector]
  | jpV0 nnn => simp [encode, decodeBySelector]
  | drw x y n =>
    have hn : n < 16 := by simpa [Instr.wellFormed] using hwf
    simp [encode, decodeBySelector, Nat.mod_eq_of_lt hn]
  | skp x => simp [encode, decodeBySelector, decodeFamilyE]
  | sknp x => simp [encode, decodeBySelector, decodeFamilyE]
  | _ => simp [encode, decodeBySelector, decodeFamily8, decodeFamilyF]

end Sys2Proof
end

section
/-! SUPPORT. The opcode map by match and mask (R85) against the decode by family and sub-selector (R83): what a row's mask
test says of the fields of the word, and from the map the form of every decoded instruction and the list of R86. -/

namespace Sys2Proof

open Sys2Proof.Certificates Sys2Proof.Laws.EncodesItsPattern

/-! ### The mask tests of the rows -/

theorem formatXK_fields (w : Word) : formatXK (fieldFam w) (fieldX w) (fieldKK w) = w := by
  have hw : w.toNat < 65536 := w.isLt
  apply BitVec.eq_of_toNat_eq
  rw [toNat_formatXK, toNat_fieldFam, val_fieldX, toNat_fieldKK]
  omega

theorem formatXY_fields (w : Word) : formatXY (fieldFam w) (fieldX w) (fieldY w) (fieldN w) = w := by
  have hw : w.toNat < 65536 := w.isLt
  apply BitVec.eq_of_toNat_eq
  rw [toNat_formatXY, toNat_fieldFam, val_fieldX, val_fieldY, toNat_fieldN]
  omega

/-- The mask 0xF000 tests the family (R82). -/
theorem and_F000 (w : Word) : w.toNat &&& 0xF000 = w.toNat / 4096 * 4096 := by
  have h := congrArg BitVec.toNat (formatXK_family (fieldFam w) (fieldX w) (fieldKK w))
  rw [formatXK_fields, toNat_append_eq_mul_add, toNat_fieldFam] at h
  exact h.trans (by rw [BitVec.toNat_ofNat]; omega)

/-- The mask 0xF00F tests the family and the low nibble (R83). -/
theorem and_F00F (w : Word) : w.toNat &&& 0xF00F = w.toNat / 4096 * 4096 + w.toNat % 16 := by
  have h := congrArg BitVec.toNat (formatXY_selector (fieldFam w) (fieldX w) (fieldY w) (fieldN w))
  rw [formatXY_fields, toNat_append_eq_mul_add, toNat_append_eq_mul_add, toNat_fieldFam, toNat_fieldN] at h
  exact h.trans (by rw [BitVec.toNat_ofNat]; omega)

/-- The mask 0xF0FF tests the family and the low byte (R83). -/
theorem and_F0FF (w : Word) : w.toNat &&& 0xF0FF = w.toNat / 4096 * 4096 + w.toNat % 256 := by
  have h := congrArg BitVec.toNat (formatXK_selector (fieldFam w) (fieldX w) (fieldKK w))
  rw [formatXK_fields, toNat_append_eq_mul_add, toNat_append_eq_mul_add, toNat_fieldFam, toNat_fieldKK] at h
  exact h.trans (by rw [BitVec.toNat_ofNat]; omega)

theorem fieldFam_eq_iff (w : Word) (c : BitVec 4) : fieldFam w = c ↔ w.toNat / 4096 = c.toNat := by
  rw [← BitVec.toNat_inj, toNat_fieldFam]

theorem fieldN_eq_iff (w : Word) (c : BitVec 4) : fieldN w = c ↔ w.toNat % 16 = c.toNat := by
  rw [← BitVec.toNat_inj, toNat_fieldN]

theorem fieldKK_eq_iff (w : Word) (c : BitVec 8) : fieldKK w = c ↔ w.toNat % 256 = c.toNat := by
  rw [← BitVec.toNat_inj, toNat_fieldKK]

/-! ### Which rows a word selects -/

/-- A word selects a row (R85). -/
def selects (w : Word) (r : OpcodeRow) : Bool := w.toNat &&& r.mask == r.sel

@[simp] theorem selects_family (w : Word) (f : Nat → Instr) (sel : Nat) (hsel : sel < 65536 ∧ sel % 4096 = 0) :
    selects w ⟨sel, 0xF000, f⟩ = decide (fieldFam w = BitVec.ofNat 4 (sel / 4096)) := by
  rw [selects, and_F000, beq_eq_decide, decide_eq_decide, fieldFam_eq_iff, BitVec.toNat_ofNat]
  dsimp only
  omega

@[simp] theorem selects_nibble (w : Word) (f : Nat → Instr) (sel : Nat) (hsel : sel < 65536 ∧ sel % 4096 < 16) :
    selects w ⟨sel, 0xF00F, f⟩ =
      decide (fieldFam w = BitVec.ofNat 4 (sel / 4096) ∧ fieldN w = BitVec.ofNat 4 (sel % 4096)) := by
  rw [selects, and_F00F, beq_eq_decide, decide_eq_decide, fieldFam_eq_iff, BitVec.toNat_ofNat,
    fieldN_eq_iff, BitVec.toNat_ofNat]
  dsimp only
  omega

@[simp] theorem selects_byte (w : Word) (f : Nat → Instr) (sel : Nat) (hsel : sel < 65536 ∧ sel % 4096 < 256) :
    selects w ⟨sel, 0xF0FF, f⟩ =
      decide (fieldFam w = BitVec.ofNat 4 (sel / 4096) ∧ fieldKK w = BitVec.ofNat 8 (sel % 4096)) := by
  rw [selects, and_F0FF, beq_eq_decide, decide_eq_decide, fieldFam_eq_iff, BitVec.toNat_ofNat,
    fieldKK_eq_iff, BitVec.toNat_ofNat]
  dsimp only
  omega

/-! ### The operands -/

theorem fieldX_eq_xOf (w : Word) : fieldX w = xOf w.toNat := Fin.ext (val_fieldX w)

theorem fieldY_eq_yOf (w : Word) : fieldY w = yOf w.toNat := Fin.ext (val_fieldY w)

theorem fieldKK_eq_kkOf (w : Word) : fieldKK w = kkOf w.toNat := by
  apply BitVec.eq_of_toNat_eq
  rw [toNat_fieldKK, kkOf, BitVec.toNat_ofNat]
  omega

theorem fieldNNN_eq_nnnOf (w : Word) : fieldNNN w = nnnOf w.toNat := by
  apply BitVec.eq_of_toNat_eq
  rw [toNat_fieldNNN, nnnOf, BitVec.toNat_ofNat]
  omega

/-! ### The decode and the map

In each proof below the decode's own arms are the case split: in an arm the fields of the word are known, so the mask test of
every row is decided and the first row that passes is the arm's. The last arm of `decodeBySelector` is not reached, since the
sixteen families before it are all. -/

/-- What the opcode map makes of a word: the instruction of the first row that the word selects. -/
def decodeByMap (w : Word) : Option Instr := (opcodeMap.find? (selects w)).map (fun r => r.instr w.toNat)

theorem decodeFamily0_eq_decodeByMap {w : Word} (h : fieldFam w = 0x0#4) : decodeFamily0 w = decodeByMap w := by
  unfold decodeFamily0
  split <;> simp_all [decodeByMap, opcodeMap, rowsFlow, rowsAlu, rowsIndex, rowsMisc]

theorem decodeFamily8_eq_decodeByMap {w : Word} (h : fieldFam w = 0x8#4) : decodeFamily8 w = decodeByMap w := by
  unfold decodeFamily8
  split <;>
    simp_all [decodeByMap, opcodeMap, rowsFlow, rowsAlu, rowsIndex, rowsMisc, fieldX_eq_xOf, fieldY_eq_yOf]

theorem decodeFamilyE_eq_decodeByMap {w : Word} (h : fieldFam w = 0xE#4) : decodeFamilyE w = decodeByMap w := by
  unfold decodeFamilyE
  split <;> simp_all [decodeByMap, opcodeMap, rowsFlow, rowsAlu, rowsIndex, rowsMisc, fieldX_eq_xOf]

theorem decodeFamilyF_eq_decodeByMap {w : Word} (h : fieldFam w = 0xF#4) : decodeFamilyF w = decodeByMap w := by
  unfold decodeFamilyF
  split <;> simp_all [decodeByMap, opcodeMap, rowsFlow, rowsAlu, rowsIndex, rowsMisc, fieldX_eq_xOf]

theorem decodeBySelector_eq_decodeByMap (w : Word) : decodeBySelector w = decodeByMap w := by
  unfold decodeBySelector
  split
  case h_1 h => exact decodeFamily0_eq_decodeByMap h
  case h_9 h => exact decodeFamily8_eq_decodeByMap h
  case h_15 h => exact decodeFamilyE_eq_decodeByMap h
  case h_16 h => exact decodeFamilyF_eq_decodeByMap h
  case h_17 => simp_all [fieldFam_eq_iff]; omega
  all_goals simp_all [decodeByMap, opcodeMap, rowsFlow, rowsAlu, rowsIndex, rowsMisc, fieldX_eq_xOf, fieldY_eq_yOf,
    fieldKK_eq_kkOf, fieldNNN_eq_nnnOf, toNat_fieldN]

/-- Settles O3: family by family, the rows of the map that a word of the family can select are the arms of its decode. -/
theorem decodeAgreesWithOpcodeMap : Obligations.DecodeAgreesWithOpcodeMap := by
  unfold Obligations.DecodeAgreesWithOpcodeMap
  exact decodeBySelector_eq_decodeByMap

theorem wellFormed_of_mem_opcodeMap {r : OpcodeRow} (hr : r ∈ opcodeMap) (n : Nat) :
    (r.instr n).wellFormed = true := by
  have h : ∀ r ∈ opcodeMap, (r.instr n).wellFormed = true := by
    simp [opcodeMap, rowsFlow, rowsAlu, rowsIndex, rowsMisc, Instr.wellFormed, Nat.mod_lt]
  exact h r hr

/-- Settles O4: by the map, a decoded instruction is that of some row, and every row reads its operands within their fields. -/
theorem decodedInstructionsWellFormed : Obligations.DecodedInstructionsWellFormed := by
  unfold Obligations.DecodedInstructionsWellFormed
  intro w i hi
  have hwf : i.wellFormed = true := by
    rw [decodeAgreesWithOpcodeMap w, Option.map_eq_some_iff] at hi
    obtain ⟨r, hr, rfl⟩ := hi
    exact wellFormed_of_mem_opcodeMap (List.mem_of_find?_eq_some hr) _
  exact ⟨hwf, decodeEncodeRoundTrip i hwf⟩

/-- Settles O1: the decoder run on each of the ten words. -/
theorem specWordsDecode : Obligations.SpecWordsDecode := by
  unfold Obligations.SpecWordsDecode
  decide

/-! ### The unrecognized words (R86) -/

theorem decodeFamily0_eq_none_iff (w : Word) : decodeFamily0 w = none ↔ w.toNat % 16 ∉ [0x0, 0xE] := by
  unfold decodeFamily0
  split <;> simp_all [fieldN_eq_iff]

theorem decodeFamily8_eq_none_iff (w : Word) :
    decodeFamily8 w = none ↔ w.toNat % 16 ∈ [0x8, 0x9, 0xA, 0xB, 0xC, 0xD, 0xF] := by
  unfold decodeFamily8
  split <;> simp_all [fieldN_eq_iff]
  omega

theorem decodeFamilyE_eq_none_iff (w : Word) : decodeFamilyE w = none ↔ w.toNat % 16 ∉ [0x1, 0xE] := by
  unfold decodeFamilyE
  split <;> simp_all [fieldN_eq_iff]

theorem decodeFamilyF_eq_none_iff (w : Word) :
    decodeFamilyF w = none ↔ w.toNat % 256 ∉ [0x07, 0x0A, 0x15, 0x18, 0x1E, 0x29, 0x33, 0x55, 0x65] := by
  unfold decodeFamilyF
  split <;> simp_all [fieldKK_eq_iff]

/-- Only the four families with a sub-selector have unrecognized words. -/
theorem decodeBySelector_eq_none_iff (w : Word) : decodeBySelector w = none ↔
    (fieldFam w = 0x0#4 ∧ decodeFamily0 w = none) ∨ (fieldFam w = 0x8#4 ∧ decodeFamily8 w = none) ∨
    (fieldFam w = 0xE#4 ∧ decodeFamilyE w = none) ∨ (fieldFam w = 0xF#4 ∧ decodeFamilyF w = none) := by
  unfold decodeBySelector
  split
  case h_17 => simp_all [fieldFam_eq_iff]; omega
  all_goals simp [*]

/-- Settles O5: the four families with a sub-selector, each with the sub-selectors its decode has no arm for. -/
theorem unrecognizedWordsListed : Obligations.UnrecognizedWordsListed := by
  unfold Obligations.UnrecognizedWordsListed
  intro w
  rw [decode_eq_decodeBySelector, decodeBySelector_eq_none_iff, decodeFamily0_eq_none_iff, decodeFamily8_eq_none_iff,
    decodeFamilyE_eq_none_iff, decodeFamilyF_eq_none_iff]
  simp only [fieldFam_eq_iff, BitVec.toNat_ofNat]

end Sys2Proof
end

section
/-! SUPPORT. The seven handlers with more than one outcome (RET, CALL, DRW, LD_B, ST_REGS, LD_REGS, LD_VX_K): what each
answers, said once; and from these that `exec` refuses nothing. -/

namespace Sys2Proof

open Sys2Proof.Machine Sys2Proof.Certificates

/-! ### The handlers' outcomes -/

/-- RET (R120, R233). -/
theorem execRet_cases (s : State) :
    (∃ h : 0 < s.sp.val, execRet s =
      .next { s with pc := s.stack[s.sp.val - 1]'(by omega), sp := ⟨s.sp.val - 1, by omega⟩ }) ∨
    s.sp.val = 0 ∧ execRet s = .fault .stackUnderflow := by
  obtain ⟨h, hpop⟩ | ⟨h, hpop⟩ := s.pop_cases
  · exact .inl ⟨h, by rw [execRet, hpop]; rfl⟩
  · exact .inr ⟨h, by rw [execRet, hpop]; rfl⟩

/-- CALL (R122, R232). -/
theorem execCall_cases (nnn : Addr) (s : State) :
    (∃ h : s.sp.val < 16, execCall nnn s =
      .next { s with stack := s.stack.set s.sp.val s.pc, sp := ⟨s.sp.val + 1, by omega⟩, pc := absAddr nnn }) ∨
    s.sp.val = 16 ∧ execCall nnn s = .fault .stackOverflow := by
  obtain ⟨h, hpush⟩ | ⟨h, hpush⟩ := s.push_cases s.pc
  · exact .inl ⟨h, by rw [execCall, hpush]; rfl⟩
  · exact .inr ⟨h, by rw [execCall, hpush]; rfl⟩

/-- The drawing that DRW makes of `n` rows (R191). -/
def spriteDrawing (x y : Reg) (n : Nat) (s : State) : Drawing :=
  drawRows (s.originX x) (s.originY y) (s.mem.readBytes s.base n) (s.fb, false)

/-- The state that DRW leaves when its rows are in memory; `VF` is written last (R196). -/
def afterDraw (x y : Reg) (n : Nat) (s : State) : State :=
  (s.setFb (spriteDrawing x y n s).1).setReg VF (flagByte (spriteDrawing x y n s).2)

/-- DRW (R191, R194). -/
theorem execDrw_cases (x y : Reg) (n : Nat) (s : State) :
    (n = 0 ∨ s.i.toNat + n ≤ 4096) ∧ execDrw x y n s = .next (afterDraw x y n s) ∨
    (n ≠ 0 ∧ 4096 < s.i.toNat + n) ∧ execDrw x y n s = .fault .addressOutOfRange := by
  obtain ⟨h, hread⟩ | ⟨h, hread⟩ := s.readRange_cases s.base n
  · exact .inl ⟨h, by rw [execDrw, hread]; rfl⟩
  · exact .inr ⟨h, by rw [execDrw, hread]; rfl⟩

/-- LD_B (R173). -/
theorem execLdB_cases (x : Reg) (s : State) :
    s.i.toNat + 3 ≤ 4096 ∧ execLdB x s =
      .next (s.setMem (s.mem.writeBytes s.base (decimalDigits (s.reg x)))) ∨
    4096 < s.i.toNat + 3 ∧ execLdB x s = .fault .addressOutOfRange := by
  obtain ⟨h, hwrite⟩ | ⟨h, hwrite⟩ := s.writeRange_cases s.base (decimalDigits (s.reg x))
  · exact .inl ⟨h.resolve_left (by simp [decimalDigits]), by rw [execLdB, hwrite]⟩
  · exact .inr ⟨h.2, by rw [execLdB, hwrite]; rfl⟩

/-- ST_REGS (R174). -/
theorem execStRegs_cases (x : Reg) (s : State) :
    s.i.toNat + (x.val + 1) ≤ 4096 ∧ execStRegs x s = .next (s.setMem (s.mem.writeBytes s.base (s.regsUpTo x))) ∨
    4096 < s.i.toNat + (x.val + 1) ∧ execStRegs x s = .fault .addressOutOfRange := by
  have hlength := s.length_regsUpTo x
  obtain ⟨h, hwrite⟩ | ⟨h, hwrite⟩ := s.writeRange_cases s.base (s.regsUpTo x) <;> rw [hlength] at h
  · exact .inl ⟨h.resolve_left (Nat.succ_ne_zero _), by rw [execStRegs, hwrite]⟩
  · exact .inr ⟨h.2, by rw [execStRegs, hwrite]; rfl⟩

/-- LD_REGS (R175). -/
theorem execLdRegs_cases (x : Reg) (s : State) :
    s.i.toNat + (x.val + 1) ≤ 4096 ∧ execLdRegs x s = .next (s.loadRegs (s.mem.readBytes s.base (x.val + 1))) ∨
    4096 < s.i.toNat + (x.val + 1) ∧ execLdRegs x s = .fault .addressOutOfRange := by
  obtain ⟨h, hread⟩ | ⟨h, hread⟩ := s.readRange_cases s.base (x.val + 1)
  · exact .inl ⟨h.resolve_left (Nat.succ_ne_zero _), by rw [execLdRegs, hread]⟩
  · exact .inr ⟨h.2, by rw [execLdRegs, hread]; rfl⟩

/-- LD_VX_K (R213): the least pressed key, or the instruction again. -/
theorem execLdVxK_cases (x : Reg) (s : State) :
    (∃ k, s.leastKey = some k ∧ execLdVxK x s = .next (s.setReg x (BitVec.ofNat 8 k))) ∨
    s.leastKey = none ∧ execLdVxK x s = .next s.replayPc := by
  cases hk : s.leastKey with
  | some k => exact .inl ⟨k, rfl, by rw [execLdVxK, hk]⟩
  | none => exact .inr ⟨rfl, by rw [execLdVxK, hk]⟩

/-! ### The state after a handler that completed -/

/-- A handler that completes or faults, and has completed, did so as its first case says. -/
theorem completed_of_cases {P Q : Prop} {r : Result} {u t : State} {k : Fault}
    (hcases : P ∧ r = .next u ∨ Q ∧ r = .fault k) (h : r = .next t) : P ∧ t = u := by
  obtain ⟨hP, hnext⟩ | ⟨-, hfault⟩ := hcases
  · exact ⟨hP, Host.Outcome.next.inj (h.symm.trans hnext)⟩
  · nomatch h.symm.trans hfault

theorem execRet_completed {s t : State} (h : execRet s = .next t) :
    ∃ hsp : 0 < s.sp.val,
      t = { s with pc := s.stack[s.sp.val - 1]'(by omega), sp := ⟨s.sp.val - 1, by omega⟩ } := by
  obtain ⟨hsp, hnext⟩ | ⟨-, hfault⟩ := execRet_cases s
  · exact ⟨hsp, Host.Outcome.next.inj (h.symm.trans hnext)⟩
  · nomatch h.symm.trans hfault

theorem execCall_completed {nnn : Addr} {s t : State} (h : execCall nnn s = .next t) :
    ∃ hsp : s.sp.val < 16,
      t = { s with stack := s.stack.set s.sp.val s.pc, sp := ⟨s.sp.val + 1, by omega⟩, pc := absAddr nnn } := by
  obtain ⟨hsp, hnext⟩ | ⟨-, hfault⟩ := execCall_cases nnn s
  · exact ⟨hsp, Host.Outcome.next.inj (h.symm.trans hnext)⟩
  · nomatch h.symm.trans hfault

theorem execLdVxK_completed {x : Reg} {s t : State} (h : execLdVxK x s = .next t) :
    (∃ k, s.leastKey = some k ∧ t = s.setReg x (BitVec.ofNat 8 k)) ∨ s.leastKey = none ∧ t = s.replayPc := by
  obtain ⟨k, hk, hnext⟩ | ⟨hk, hnext⟩ := execLdVxK_cases x s
  · exact .inl ⟨k, hk, Host.Outcome.next.inj (h.symm.trans hnext)⟩
  · exact .inr ⟨hk, Host.Outcome.next.inj (h.symm.trans hnext)⟩

/-! ### No refusal -/

/-- A handler answers a next state or a fault (R83, R104). -/
theorem exec_next_or_fault (i : Instr) (s : State) : (∃ t, exec i s = .next t) ∨ (∃ k, exec i s = .fault k) := by
  cases i with
  | ret => exact (execRet_cases s).imp (fun ⟨_, h⟩ => ⟨_, h⟩) (fun ⟨_, h⟩ => ⟨_, h⟩)
  | call nnn => exact (execCall_cases nnn s).imp (fun ⟨_, h⟩ => ⟨_, h⟩) (fun ⟨_, h⟩ => ⟨_, h⟩)
  | drw x y n => exact (execDrw_cases x y n s).imp (fun ⟨_, h⟩ => ⟨_, h⟩) (fun ⟨_, h⟩ => ⟨_, h⟩)
  | ldB x => exact (execLdB_cases x s).imp (fun ⟨_, h⟩ => ⟨_, h⟩) (fun ⟨_, h⟩ => ⟨_, h⟩)
  | stRegs x => exact (execStRegs_cases x s).imp (fun ⟨_, h⟩ => ⟨_, h⟩) (fun ⟨_, h⟩ => ⟨_, h⟩)
  | ldRegs x => exact (execLdRegs_cases x s).imp (fun ⟨_, h⟩ => ⟨_, h⟩) (fun ⟨_, h⟩ => ⟨_, h⟩)
  | ldVxK x =>
    obtain ⟨k, -, h⟩ | ⟨-, h⟩ := execLdVxK_cases x s
    · exact .inl ⟨_, h⟩
    · exact .inl ⟨_, h⟩
  | _ => exact .inl ⟨_, rfl⟩

end Sys2Proof
end

section
/-! SUPPORT. The step as a whole (R100): it is the end of the handler's result on the advanced state, so what a step answers
and when it faults follows from what the handlers answer. -/

namespace Sys2Proof

open Sys2Proof.Machine Sys2Proof.Safety Sys2Proof.Certificates

/-! ### The phases -/

theorem step_of_latched {s : State} {k : Fault} (h : s.fault = some k) : step s = .fault k := by
  simp [step, h, raise]

/-- A fetch beyond memory ends the step (R101). -/
theorem step_of_fetch_out_of_range {s : State} (hf : s.fault = none) (hpc : 4095 ≤ s.pc.toNat) :
    step s = .fault .addressOutOfRange := by
  obtain ⟨hin, -⟩ | ⟨-, hfetch⟩ := State.fetch_cases s
  · omega
  · simp [step, hf, hfetch, raise]

theorem step_of_instrAtPc {s : State} {i : Instr} (hs : CanFetch s) (hi : instrAtPc s = some i) :
    step s = finishStep (exec i s.advancePc) := by
  obtain ⟨hfault, hpc⟩ := hs
  have hdecode : decode (wordAtPc s) = some i := hi
  simp [step, hfault, fetch_eq_wordAtPc hpc, hdecode]

theorem step_of_exec_next {s t : State} {i : Instr} (hs : CanFetch s) (hi : instrAtPc s = some i)
    (h : exec i s.advancePc = .next t) : step s = .next t.tickTimers := by
  rw [step_of_instrAtPc hs hi, h, finishStep]

theorem finishStep_eq_fault_iff (r : Result) (k : Fault) : finishStep r = .fault k ↔ r = .fault k := by
  cases r <;> simp [finishStep, raise]

/-- A running core that can fetch, and one that cannot. -/
theorem canFetch_or_out_of_range {s : State} (hf : s.fault = none) : CanFetch s ∨ 4095 ≤ s.pc.toNat := by
  by_cases hpc : s.pc.toNat ≤ 4094
  · exact .inl ⟨hf, hpc⟩
  · exact .inr (by omega)

/-- Settles O6: the advance of R102 and the timer phase of R106 are the two updates the statement writes out. -/
theorem stepRunsDecodedInstruction : Obligations.StepRunsDecodedInstruction := by
  unfold Obligations.StepRunsDecodedInstruction
  intro s i hs hi
  refine ⟨fun t ht => step_of_exec_next hs hi ht, fun k hk => ?_⟩
  rw [step_of_instrAtPc hs hi, finishStep_eq_fault_iff]
  exact hk

/-! ### What a step answers -/

theorem step_next_or_fault (s : State) : (∃ t, step s = .next t) ∨ (∃ k, step s = .fault k) := by
  cases hf : s.fault with
  | some k => exact .inr ⟨k, step_of_latched hf⟩
  | none =>
    obtain hs | hpc := canFetch_or_out_of_range hf
    · cases hi : instrAtPc s with
      | none => exact .inl ⟨_, step_of_instrAtPc_none hs hi⟩
      | some i =>
        rw [step_of_instrAtPc hs hi]
        obtain ⟨t, h⟩ | ⟨k, h⟩ := exec_next_or_fault i s.advancePc
        · exact .inl ⟨t.tickTimers, by rw [h, finishStep]⟩
        · exact .inr ⟨k, (finishStep_eq_fault_iff _ k).2 h⟩
    · exact .inr ⟨_, step_of_fetch_out_of_range hf hpc⟩

/-- Settles O11: the latch, the fetch and every handler answer a next state or a fault. -/
theorem stepAnswersNextOrFault : Obligations.StepAnswersNextOrFault := by
  unfold Obligations.StepAnswersNextOrFault
  exact step_next_or_fault

/-! ### When a step faults -/

/-- The fault conditions read `sp`, `I` and the operands, which the advance leaves as they are (R102). -/
theorem handlerFault_advancePc (i : Instr) (s : State) (k : Fault) :
    HandlerFault i s.advancePc k ↔ HandlerFault i s k := by
  cases i <;> exact Iff.rfl

theorem step_fault_iff_handlerFault {s : State} {i : Instr} (hs : CanFetch s) (hi : instrAtPc s = some i) (k : Fault) :
    step s = .fault k ↔ HandlerFault i s k := by
  rw [step_of_instrAtPc hs hi, finishStep_eq_fault_iff, exec_fault_iff, handlerFault_advancePc]

/-- Settles O9: beyond memory the fetch faults; within it the step faults as the handler of the instruction at `pc` does, and
a word that is no instruction never. -/
theorem stepFaultsExactlyWhen : Obligations.StepFaultsExactlyWhen := by
  unfold Obligations.StepFaultsExactlyWhen
  intro s k hf
  obtain ⟨-, hpc⟩ | hpc := canFetch_or_out_of_range hf
  · have hs : CanFetch s := ⟨hf, hpc⟩
    have hin : ¬ 4095 < s.pc.toNat + 1 := by omega
    have hin' : s.pc.toNat + 1 ≤ 4095 := by omega
    cases hi : instrAtPc s with
    | none => simp [step_of_instrAtPc_none hs hi, hin]
    | some i => simp [step_fault_iff_handlerFault hs hi, hin, hin']
  · have hout : 4095 < s.pc.toNat + 1 := by omega
    have hout' : ¬ s.pc.toNat + 1 ≤ 4095 := by omega
    simp [step_of_fetch_out_of_range hf hpc, hout, hout', eq_comm]

end Sys2Proof
end

section
/-! SUPPORT. The call stack and the computed jump (41_flow.md): what RET, CALL and a CALL followed by a RET do. -/

namespace Sys2Proof

open Sys2Proof.Machine Sys2Proof.Safety

/-! ### RET and CALL -/

theorem frame_pc_stack (s : State) (pc : Word) (stack : Vector Word 16) (sp : Fin 17) :
    Frame { pc := true, stack := true } s { s with pc := pc, stack := stack, sp := sp } := by
  simp [Frame, State.reg]

/-- Settles O27: the pop answers the entry below `sp` and leaves the stack as it is. -/
theorem retPopsIntoPc : Obligations.RetPopsIntoPc := by
  unfold Obligations.RetPopsIntoPc
  intro s hsp
  obtain ⟨h, hexec⟩ | ⟨hempty, -⟩ := execRet_cases s
  · refine ⟨_, hexec, rfl, fun k hk => ?_, rfl, frame_pc_stack s _ _ _⟩
    simp [← hk]
  · omega

/-- Settles O28: the push writes the handler's `pc` to the one entry that `sp` indexes. -/
theorem callPushesAdvancedPc : Obligations.CallPushesAdvancedPc := by
  unfold Obligations.CallPushesAdvancedPc
  intro nnn s hsp
  obtain ⟨h, hexec⟩ | ⟨hfull, -⟩ := execCall_cases nnn s
  · refine ⟨_, hexec, rfl, toNat_absAddr nnn, fun k => ?_, frame_pc_stack s _ _ _⟩
    simp [Vector.getElem_set, eq_comm]
  · omega

/-- Settles O29: after the push `sp` is above 0 and the entry below it is the pushed `pc`. -/
theorem callThenReturnResumes : Obligations.CallThenReturnResumes := by
  unfold Obligations.CallThenReturnResumes
  intro nnn s t later ht
  obtain ⟨hsp, rfl⟩ := execCall_completed ht
  obtain ⟨_, hret⟩ | ⟨hempty, -⟩ := execRet_cases
    { s with stack := s.stack.set s.sp.val s.pc, sp := ⟨s.sp.val + 1, by omega⟩, pc := later }
  · exact ⟨_, hret, by simp, by simp⟩
  · simp at hempty

/-! ### The computed jump (R127) -/

theorem toNat_regWide (s : State) (r : Reg) : (s.regWide r).toNat = (s.reg r).toNat :=
  BitVec.toNat_setWidth_of_le (by decide)

/-- Settles O31: the sum of a byte and a 12-bit address is far below 65536, so it does not wrap. -/
theorem computedJumpAddsV0 : Obligations.ComputedJumpAddsV0 := by
  unfold Obligations.ComputedJumpAddsV0
  intro nnn s
  have hexec : exec (.jpV0 nnn) s = .next (s.setPc (s.regWide 0 + absAddr nnn)) := rfl
  have hsum : (s.regWide 0 + absAddr nnn).toNat = (s.reg 0).toNat + nnn.toNat := by
    rw [BitVec.toNat_add, toNat_regWide, toNat_absAddr]
    omega
  exact ⟨_, hexec, hsum, frame_setPc s _⟩

end Sys2Proof
end

section
/-! SUPPORT. The ALU forms that act bit by bit, subtract, shift, or draw a random byte (42_alu.md). -/

namespace Sys2Proof

open Sys2Proof.Machine Sys2Proof.Safety

/-! ### Bit by bit (R145 to R147) -/

/-- Settles O34: each handler is one write to `V[x]`, of a word operation that is defined on each bit. -/
theorem bitwiseForms : Obligations.BitwiseForms := by
  unfold Obligations.BitwiseForms
  intro x y s
  have hOr : exec (.or x y) s = .next (s.setReg x (s.reg x ||| s.reg y)) := rfl
  have hAnd : exec (.and x y) s = .next (s.setReg x (s.reg x &&& s.reg y)) := rfl
  have hXor : exec (.xor x y) s = .next (s.setReg x (s.reg x ^^^ s.reg y)) := rfl
  exact ⟨⟨_, hOr, fun j => by rw [State.setReg_reg_same, BitVec.getLsbD_or], frame_setReg s x _⟩,
    ⟨_, hAnd, fun j => by rw [State.setReg_reg_same, BitVec.getLsbD_and], frame_setReg s x _⟩,
    ⟨_, hXor, fun j => by rw [State.setReg_reg_same, BitVec.getLsbD_xor], frame_setReg s x _⟩⟩

/-! ### Subtraction (R149, R151) -/

theorem toNat_sub_byte (a b : Byte) : (a - b).toNat = (a.toNat + 256 - b.toNat) % 256 := by
  rw [BitVec.toNat_sub]
  omega

/-- With SUB_EQUAL_FLAG = 1 the flag says that nothing was borrowed, equal operands included (D5, log 8). -/
theorem notBorrow_iff (a b : Byte) : notBorrow a b = true ↔ a.toNat ≥ b.toNat := by
  rw [notBorrow]
  split
  · rename_i hab
    simp [config, hab]
  · rename_i hab
    have hne : a.toNat ≠ b.toNat := mt BitVec.eq_of_toNat_eq hab
    rw [decide_eq_true_iff]
    omega

/-- Settles O36: each form writes a difference and then its not-borrow, both computed from the old values. -/
theorem subtractSetsNotBorrow : Obligations.SubtractSetsNotBorrow := by
  unfold Obligations.SubtractSetsNotBorrow
  intro x y s
  have hSub : exec (.sub x y) s =
      .next (s.writeResultFlag x (s.reg x - s.reg y) (notBorrow (s.reg x) (s.reg y))) := rfl
  have hSubn : exec (.subn x y) s =
      .next (s.writeResultFlag x (s.reg y - s.reg x) (notBorrow (s.reg y) (s.reg x))) := rfl
  exact ⟨resultFlag_completes hSub (toNat_sub_byte _ _) (notBorrow_iff _ _),
    resultFlag_completes hSubn (toNat_sub_byte _ _) (notBorrow_iff _ _)⟩

/-! ### Shifts (R150, R152) -/

theorem toNat_shiftRight_one (a : Byte) : (a >>> 1).toNat = a.toNat / 2 := by
  rw [BitVec.toNat_ushiftRight, Nat.shiftRight_eq_div_pow, Nat.pow_one]

theorem toNat_shiftLeft_one (a : Byte) : (a <<< 1).toNat = 2 * a.toNat % 256 := by
  rw [BitVec.toNat_shiftLeft, Nat.shiftLeft_eq, Nat.pow_one, Nat.mul_comm]

theorem shiftedOutRight_iff (a : Byte) : shiftedOutRight a = true ↔ a.toNat % 2 = 1 := by
  simp [shiftedOutRight, BitVec.getLsbD, Nat.testBit_zero]

theorem shiftedOutLeft_iff (a : Byte) : shiftedOutLeft a = true ↔ a.toNat / 128 = 1 := by
  have ha : a.toNat < 256 := a.isLt
  simp only [shiftedOutLeft, BitVec.getLsbD, Nat.testBit_eq_decide_div_mod_eq, decide_eq_true_iff]
  omega

/-- Settles O37: with SHIFT_SOURCE = Vx (D4) each form writes a shift of `V[x]` and then the bit it drops. -/
theorem shiftsDropBitIntoVf : Obligations.ShiftsDropBitIntoVf := by
  unfold Obligations.ShiftsDropBitIntoVf
  intro x y s
  have hShr : exec (.shr x y) s = .next (s.writeResultFlag x (s.reg x >>> 1) (shiftedOutRight (s.reg x))) := rfl
  have hShl : exec (.shl x y) s = .next (s.writeResultFlag x (s.reg x <<< 1) (shiftedOutLeft (s.reg x))) := rfl
  have hlow : (if (s.reg x).toNat % 2 = 1 then 1 else 0) = (s.reg x).toNat % 2 := by split <;> omega
  have hhigh : (if (s.reg x).toNat / 128 = 1 then 1 else 0) = (s.reg x).toNat / 128 := by split <;> omega
  have hright := resultFlag_completes hShr (toNat_shiftRight_one _) (shiftedOutRight_iff _)
  have hleft := resultFlag_completes hShl (toNat_shiftLeft_one _) (shiftedOutLeft_iff _)
  rw [hlow] at hright
  rw [hhigh] at hleft
  exact ⟨hright, hleft⟩

/-! ### The random byte (R153) -/

theorem frame_drawByte_setReg (s : State) (x : Reg) (b : Byte) :
    Frame { regs := [x], draws := true } s (s.drawByte.2.setReg x b) := by
  simp +contextual [Frame]

/-- Settles O38: the handler counts one draw and writes its byte under the mask. -/
theorem randomByteIsMasked : Obligations.RandomByteIsMasked := by
  unfold Obligations.RandomByteIsMasked
  intro x kk s
  have hexec : exec (.rnd x kk) s = .next (s.drawByte.2.setReg x (Config.drawByte s.draws &&& kk)) := rfl
  refine ⟨_, hexec, State.setReg_reg_same _ _ _, fun j hj => ?_, rfl, frame_drawByte_setReg s x _⟩
  rw [State.setReg_reg_same, BitVec.getLsbD_and, hj, Bool.and_false]

end Sys2Proof
end

section
/-! SUPPORT. The index register's arithmetic (R171, R172). -/

namespace Sys2Proof

open Sys2Proof.Machine Sys2Proof.Safety

theorem toNat_glyphAddr (s : State) (x : Reg) : (s.glyphAddr x).toNat = 0x050 + 5 * (s.reg x).toNat := by
  simp only [State.glyphAddr, BitVec.toNat_add, BitVec.toNat_mul, toNat_regWide, BitVec.toNat_ofNat]
  omega

/-- Settles O40: `I + V[x]` may wrap at 65536; `0x050 + 5 * V[x]` is too small to. -/
theorem indexArithmetic : Obligations.IndexArithmetic := by
  unfold Obligations.IndexArithmetic
  intro x s
  have hAddI : exec (.addI x) s = .next (s.setI (s.i + s.regWide x)) := rfl
  have hLdF : exec (.ldF x) s = .next (s.setI (s.glyphAddr x)) := rfl
  have hsum : (s.i + s.regWide x).toNat = (s.i.toNat + (s.reg x).toNat) % 65536 := by
    rw [BitVec.toNat_add, toNat_regWide]
  exact ⟨⟨_, hAddI, hsum, frame_setI s _⟩, ⟨_, hLdF, toNat_glyphAddr s x, frame_setI s _⟩⟩

end Sys2Proof
end

section
/-! SUPPORT. The instructions that store registers to memory or load them from it (43_index_memory.md): what a block of bytes
written to memory or to the register file leaves where, and what a later load or fetch reads of it. -/

namespace Sys2Proof

open Sys2Proof.Machine Sys2Proof.Safety

/-! ### A block of bytes stored -/

theorem frame_writeBytes (s : State) (a : Nat) (bs : List Byte) :
    Frame { memBase := a, memLen := bs.length } s (s.setMem (s.mem.writeBytes a bs)) := by
  have hread : ∀ x, x < a ∨ a + bs.length ≤ x → (s.mem.writeBytes a bs).read x = s.mem.read x := by
    intro x hx
    rw [Memory.read_writeBytes, if_neg (by omega)]
  simpa [Frame] using hread

theorem read_writeBytes_offset (m : Memory) (a : Nat) (bs : List Byte) (k : Nat) (hk : k < bs.length) :
    (m.writeBytes a bs).read (a + k) = bs[k] := by
  rw [Memory.read_writeBytes, if_pos (by omega), Nat.add_sub_cancel_left, List.getD_eq_getElem _ _ hk]

/-- The bytes that ST_REGS stores, read back one by one (R174). -/
theorem read_writeBytes_regsUpTo (s : State) (m : Memory) (a : Nat) (x r : Reg) (hr : r ≤ x) :
    (m.writeBytes a (s.regsUpTo x)).read (a + r.val) = s.reg r := by
  have hk : r.val < (s.regsUpTo x).length := by
    rw [State.length_regsUpTo]
    exact Nat.lt_succ_of_le hr
  rw [read_writeBytes_offset _ _ _ _ hk, State.getElem_regsUpTo]

/-- Settles O41: the three digits are below 10, so no byte truncates them. -/
theorem decimalDigitsStored : Obligations.DecimalDigitsStored := by
  unfold Obligations.DecimalDigitsStored
  intro x s hrange
  have hlt : (s.reg x).toNat < 256 := (s.reg x).isLt
  obtain ⟨-, hexec⟩ | ⟨hout, -⟩ := execLdB_cases x s
  · have hdigit : ∀ k (hk : k < 3) (d : Nat), (decimalDigits (s.reg x))[k] = BitVec.ofNat 8 d → d < 256 →
        ((s.mem.writeBytes s.base (decimalDigits (s.reg x))).read (s.base + k)).toNat = d := by
      intro k hk d hd hlt
      rw [read_writeBytes_offset s.mem s.base (decimalDigits (s.reg x)) k hk, hd, BitVec.toNat_ofNat, Nat.mod_eq_of_lt hlt]
    exact ⟨_, hexec, hdigit 0 (by decide) _ rfl (by omega), hdigit 1 (by decide) _ rfl (by omega),
      hdigit 2 (by decide) _ rfl (by omega), frame_writeBytes s s.base (decimalDigits (s.reg x))⟩
  · omega

theorem frame_stRegs (x : Reg) (s : State) :
    Frame { memBase := s.base, memLen := x.val + 1 } s (s.setMem (s.mem.writeBytes s.base (s.regsUpTo x))) := by
  have h := frame_writeBytes s s.base (s.regsUpTo x)
  rwa [State.length_regsUpTo] at h

/-- Settles O42: the block stored is `V[0]` to `V[x]` in order. -/
theorem registersStored : Obligations.RegistersStored := by
  unfold Obligations.RegistersStored
  intro x s hrange
  obtain ⟨-, hexec⟩ | ⟨hout, -⟩ := execStRegs_cases x s
  · exact ⟨_, hexec, fun r hr => read_writeBytes_regsUpTo s s.mem s.base x r hr, frame_stRegs x s⟩
  · omega

/-! ### A block of bytes loaded -/

/-- A block loaded changes no register but those it is long enough to reach. -/
theorem frame_loadRegs (s : State) (bs : List Byte) (regs : List Reg) (hregs : ∀ r : Reg, r.val < bs.length → r ∈ regs) :
    Frame { regs := regs } s (s.loadRegs bs) := by
  have hreg : ∀ r, r ∉ regs → (s.loadRegs bs).reg r = s.reg r := by
    intro r hr
    rw [State.loadRegs_reg, if_neg (mt (hregs r) hr)]
  simpa [Frame] using hreg

/-- Each register up to `x` after LD_REGS holds the byte at its offset (R175). -/
theorem loadRegs_readBytes_reg (s : State) (m : Memory) (a : Nat) (x r : Reg) (hr : r ≤ x) :
    (s.loadRegs (m.readBytes a (x.val + 1))).reg r = m.read (a + r.val) := by
  have hk : r.val < (m.readBytes a (x.val + 1)).length := by
    rw [Memory.length_readBytes]
    exact Nat.lt_succ_of_le hr
  rw [State.loadRegs_reg, if_pos hk, List.getD_eq_getElem _ _ hk, Memory.getElem_readBytes]

theorem loadRegs_readBytes_reg_above (s : State) (m : Memory) (a : Nat) (x r : Reg) (hr : x < r) :
    (s.loadRegs (m.readBytes a (x.val + 1))).reg r = s.reg r := by
  rw [State.loadRegs_reg, Memory.length_readBytes, if_neg (Nat.not_lt_of_le hr)]

/-- Settles O43: the block loaded is as long as the registers up to `x`, so it reaches those and no other. -/
theorem registersLoaded : Obligations.RegistersLoaded := by
  unfold Obligations.RegistersLoaded
  intro x s hrange
  obtain ⟨-, hexec⟩ | ⟨hout, -⟩ := execLdRegs_cases x s
  · exact ⟨_, hexec, fun r hr => loadRegs_readBytes_reg s s.mem s.base x r hr,
      fun r hr => loadRegs_readBytes_reg_above s s.mem s.base x r hr,
      frame_loadRegs s _ _ (fun r _ => List.mem_finRange r)⟩
  · omega

/-! ### What is read of a store -/

/-- Settles O44: the store completed, so the load from the same addresses is in range and reads the bytes stored. -/
theorem storeThenLoadRestoresRegisters : Obligations.StoreThenLoadRestoresRegisters := by
  unfold Obligations.StoreThenLoadRestoresRegisters
  intro x s t t' ht hmem hi
  obtain ⟨hrange, rfl⟩ := completed_of_cases (execStRegs_cases x s) ht
  have hbase : t'.base = s.base := congrArg BitVec.toNat hi
  obtain ⟨-, hload⟩ | ⟨hout, -⟩ := execLdRegs_cases x t'
  · refine ⟨_, hload, fun r hr => ?_⟩
    rw [loadRegs_readBytes_reg _ _ _ _ _ hr, hmem, hbase]
    exact read_writeBytes_regsUpTo s s.mem s.base x r hr
  · rw [hi] at hout
    omega

/-- Settles O25: a fetch has no copy of memory of its own, so it reads the first two bytes that the store wrote. -/
theorem storeSeenByNextFetch : Obligations.StoreSeenByNextFetch := by
  unfold Obligations.StoreSeenByNextFetch
  intro x s t hx ht
  obtain ⟨hrange, rfl⟩ := completed_of_cases (execStRegs_cases x s) ht
  have hread := read_writeBytes_regsUpTo s s.mem s.base x
  obtain ⟨-, hfetch⟩ | ⟨hpast, -⟩ :=
    ((s.setMem (s.mem.writeBytes s.base (s.regsUpTo x))).setPc s.i).fetch_cases
  · refine ⟨_, hfetch, ?_⟩
    rw [toNat_wordOfBytes, ← hread 0 (Fin.zero_le x), ← hread 1 (Fin.le_def.2 hx)]
    rfl
  · rw [State.setPc_pc] at hpast
    omega

end Sys2Proof
end

section
/-! SUPPORT. The sprite drawing of DRW (44_display.md): the pixels under a sprite in the terms of the statements, what one
draw does to the framebuffer and to `VF`, and what a second draw of the same sprite does. -/

namespace Sys2Proof

open Sys2Proof.Machine Sys2Proof.Safety Sys2Proof.Certificates

/-! ### The pixels under a sprite -/

/-- The sprite of `DRW Vx, Vy, n` has a set bit on pixel `(px, py)` of the screen. -/
def spriteOn (x y : Reg) (n : Nat) (s : State) (px py : Nat) : Bool :=
  spriteCovers (s.originX x) (s.originY y) (s.mem.readBytes s.base n) px py

theorem readBytes_getD (m : Memory) (a n k : Nat) (hk : k < n) : (m.readBytes a n).getD k 0#8 = m.read (a + k) := by
  have hk' : k < (m.readBytes a n).length := by rwa [Memory.length_readBytes]
  rw [List.getD_eq_getElem _ _ hk', Memory.getElem_readBytes]

/-- The sprite's row and column at a pixel are its distances from the origin (R191, R195). -/
theorem spriteOn_iff (x y : Reg) (n : Nat) (s : State) (px py : Nat) :
    spriteOn x y n s px py = true ↔ SpriteOn x y n s px py := by
  simp only [spriteOn, spriteCovers, rowCovers, Bool.and_eq_true, decide_eq_true_iff, Memory.length_readBytes]
  constructor
  · rintro ⟨hrow, hcol, hbit⟩
    rw [readBytes_getD _ _ _ _ (by omega)] at hbit
    exact ⟨py - s.originY y, px - s.originX x, by omega, by omega, by unfold State.originX at *; omega,
      by unfold State.originY at *; omega, by omega, by omega, hbit⟩
  · rintro ⟨row, col, hrow, hcol, hpx, hpy, hx, hy, hbit⟩
    have hrow' : py - s.originY y = row := by unfold State.originY; omega
    have hcol' : px - s.originX x = col := by unfold State.originX; omega
    rw [hrow', hcol', readBytes_getD _ _ _ _ hrow]
    unfold State.originX State.originY
    exact ⟨by omega, by omega, hbit⟩

/-! ### One draw -/

theorem spriteDrawing_pixel (x y : Reg) (n : Nat) (s : State) (px py : Nat) :
    (spriteDrawing x y n s).1.pixel px py = (s.fb.pixel px py ^^ spriteOn x y n s px py) :=
  drawRows_pixel _ _ _ _ _ _

theorem spriteDrawing_hit (x y : Reg) (n : Nat) (s : State) :
    (spriteDrawing x y n s).2 = true ↔ SpriteHits x y n s := by
  rw [spriteDrawing, drawRows_hit]
  simp only [Bool.false_eq_true, false_or]
  exact exists₂_congr fun px py => and_congr_left' (spriteOn_iff x y n s px py)

theorem frame_afterDraw (x y : Reg) (n : Nat) (s : State) :
    Frame { regs := [15], fb := true } s (afterDraw x y n s) := by
  simp +contextual [Frame, afterDraw]

theorem afterDraw_VF (x y : Reg) (n : Nat) (s : State) :
    (SpriteHits x y n s → (afterDraw x y n s).reg 15 = 1#8) ∧
    (¬ SpriteHits x y n s → (afterDraw x y n s).reg 15 = 0#8) := by
  rw [afterDraw, State.setReg_reg_same, ← spriteDrawing_hit]
  cases (spriteDrawing x y n s).2 <;> simp [flagByte]

theorem afterDraw_pixel (x y : Reg) (n : Nat) (s : State) (px py : Nat) :
    (afterDraw x y n s).fb.pixel px py = (s.fb.pixel px py ^^ spriteOn x y n s px py) :=
  spriteDrawing_pixel x y n s px py

/-- Settles O46: the drawing toggles the pixels under the sprite, and collides when one of them was on. -/
theorem drawInvertsSpritePixels : Obligations.DrawInvertsSpritePixels := by
  unfold Obligations.DrawInvertsSpritePixels
  intro x y n s hrange
  obtain ⟨-, hexec⟩ | ⟨hout, -⟩ := execDrw_cases x y n s
  · refine ⟨_, hexec, fun px py => ?_, ?_, frame_afterDraw x y n s⟩
    · rw [afterDraw_pixel, ← spriteOn_iff]
      cases s.fb.pixel px py <;> cases spriteOn x y n s px py <;> simp
    · obtain ⟨hhit, hmiss⟩ := afterDraw_VF x y n s
      exact (em (SpriteHits x y n s)).imp (fun h => ⟨hhit h, h⟩) (fun h => ⟨hmiss h, h⟩)
  · omega

/-! ### The same draw again -/

/-- With its coordinates outside `VF` a sprite lies where it lay: the draw changes no other register, no memory, not `I`. -/
theorem spriteOn_afterDraw {x y : Reg} (hx : x ≠ 15) (hy : y ≠ 15) (n : Nat) (s : State) (px py : Nat) :
    spriteOn x y n (afterDraw x y n s) px py = spriteOn x y n s px py := by
  simp [spriteOn, afterDraw, State.originX, State.originY, State.base, hx, hy]

/-- Settles O47: the second draw toggles the same pixels back; from a blank screen the first draw collides nowhere and leaves
on the pixels with which the second collides. -/
theorem drawTwiceCancels : Obligations.DrawTwiceCancels := by
  unfold Obligations.DrawTwiceCancels
  intro x y n s t hx hy ht
  have hsame := spriteOn_afterDraw hx hy n s
  obtain ⟨hrange, rfl⟩ := completed_of_cases (execDrw_cases x y n s) ht
  have hi : (afterDraw x y n s).i = s.i := rfl
  obtain ⟨-, hsecond⟩ | ⟨⟨hn, hout⟩, -⟩ := execDrw_cases x y n (afterDraw x y n s)
  · refine ⟨_, hsecond, fun px py => ?_, fun hblank ⟨px, py, hon⟩ => ⟨?_, ?_⟩⟩
    · rw [afterDraw_pixel, afterDraw_pixel, hsame, Bool.xor_assoc, Bool.xor_self, Bool.xor_false]
    · refine (afterDraw_VF x y n s).2 ?_
      rintro ⟨a, b, -, hpixel⟩
      rw [hblank a b] at hpixel
      nomatch hpixel
    · refine (afterDraw_VF x y n (afterDraw x y n s)).1 ⟨px, py, ?_, ?_⟩
      · rwa [← spriteOn_iff, hsame, spriteOn_iff]
      · rw [afterDraw_pixel, hblank px py, (spriteOn_iff x y n s px py).2 hon]
        rfl
  · rw [hi] at hout
    omega

end Sys2Proof
end

section
/-! SUPPORT. The key wait and the timer forms (45_keypad_timers.md), as handlers and as whole steps, and the whole step of a
jump to itself. -/

namespace Sys2Proof

open Sys2Proof.Machine Sys2Proof.Safety

/-! ### The handlers -/

theorem frame_setDt (s : State) (b : Byte) : Frame { dt := true } s (s.setDt b) := by
  simp [Frame]

theorem frame_setSt (s : State) (b : Byte) : Frame { st := true } s (s.setSt b) := by
  simp [Frame]

theorem frame_replayPc (s : State) : Frame { pc := true } s s.replayPc := frame_setPc s _

theorem execLdVxDt_eq (x : Reg) (s : State) : exec (.ldVxDt x) s = .next (s.setReg x s.dt) := rfl

theorem execLdDtVx_eq (x : Reg) (s : State) : exec (.ldDtVx x) s = .next (s.setDt (s.reg x)) := rfl

theorem execLdStVx_eq (x : Reg) (s : State) : exec (.ldStVx x) s = .next (s.setSt (s.reg x)) := rfl

/-- Settles O51: each handler is one write, of a timer to a register or of a register to a timer. -/
theorem timerAccessForms : Obligations.TimerAccessForms := by
  unfold Obligations.TimerAccessForms
  intro x s
  exact ⟨⟨_, execLdVxDt_eq x s, State.setReg_reg_same s x _, frame_setReg s x _⟩,
    ⟨_, execLdDtVx_eq x s, rfl, frame_setDt s _⟩, ⟨_, execLdStVx_eq x s, rfl, frame_setSt s _⟩⟩

theorem execLdVxK_released (x : Reg) {s : State} (h : ∀ k, s.key k = false) :
    exec (.ldVxK x) s = .next s.replayPc := by
  obtain ⟨k, hk, -⟩ | ⟨-, hexec⟩ := execLdVxK_cases x s
  · simp [(State.leastKey_none s).2 h] at hk
  · exact hexec

/-- A pressed key below which every key is released is the least one. -/
theorem leastKey_eq_some {s : State} {k : Fin 16} (hk : s.key k = true) (hlow : ∀ j : Fin 16, j < k → s.key j = false) :
    s.leastKey = some k.val := by
  cases hleast : s.leastKey with
  | none => simp [(State.leastKey_none s).1 hleast k] at hk
  | some m =>
    obtain ⟨hm, hpressed, hmin⟩ := State.leastKey_some s m hleast
    obtain hlt | heq | hgt := lt_trichotomy (⟨m, hm⟩ : Fin 16) k
    · simp [hlow _ hlt] at hpressed
    · rw [← heq]
    · simp [hmin k hgt] at hk

/-- Settles O49: the handler writes the least pressed key, which is the one named, or moves `pc` back when there is none. -/
theorem keyWaitTakesLeastKey : Obligations.KeyWaitTakesLeastKey := by
  unfold Obligations.KeyWaitTakesLeastKey
  intro x s
  refine ⟨fun k hk hlow => ?_, fun hnone => ⟨_, execLdVxK_released x hnone, rfl, frame_replayPc s⟩⟩
  have hleast := leastKey_eq_some hk hlow
  obtain ⟨m, hm, hexec⟩ | ⟨hnone, -⟩ := execLdVxK_cases x s
  · obtain rfl : k.val = m := Option.some.inj (hleast.symm.trans hm)
    refine ⟨_, hexec, ?_, frame_setReg s x _⟩
    rw [State.setReg_reg_same, BitVec.toNat_ofNat, Nat.mod_eq_of_lt (by omega)]
  · rw [hleast] at hnone
    nomatch hnone

/-! ### Whole steps -/

/-- Between the advance and the timer phase a handler writes what its frame says; the step then writes `pc` and the timers
besides. -/
theorem frame_step {w : Writes} {s t : State} (h : Frame w s.advancePc t) :
    Frame { w with pc := true, dt := true, st := true } s t.tickTimers := by
  obtain ⟨hreg, hi, -, hstack, -, -, hfb, hmem, hdraws, hkeys, hfault⟩ := h
  exact ⟨hreg, hi, nofun, hstack, nofun, nofun, hfb, hmem, hdraws, hkeys, hfault⟩

/-- A step whose `pc` ends where it was has changed the timers only. -/
theorem frame_timers_of_pc_eq {s t : State} (h : Frame { pc := true, dt := true, st := true } s t)
    (hpc : t.pc = s.pc) : Frame { dt := true, st := true } s t := by
  obtain ⟨hreg, hi, -, hrest⟩ := h
  exact ⟨hreg, hi, fun _ => hpc, hrest⟩

/-- Settles O26: the jump undoes the advance, and only the timer phase is left. -/
theorem selfJumpIdles : Obligations.SelfJumpIdles := by
  unfold Obligations.SelfJumpIdles
  intro s nnn hs hi hself
  have hexec : exec (.jp nnn) s.advancePc = .next (s.advancePc.setPc (absAddr nnn)) := rfl
  have hpc : absAddr nnn = s.pc := BitVec.eq_of_toNat_eq ((toNat_absAddr nnn).trans hself)
  exact ⟨_, step_of_exec_next hs hi hexec, tick_toNat s.dt, tick_toNat s.st,
    frame_timers_of_pc_eq (frame_step (frame_setPc s.advancePc _)) hpc⟩

/-- Settles O50: the replay undoes the advance, and only the timer phase is left. -/
theorem keyWaitReplays : Obligations.KeyWaitReplays := by
  unfold Obligations.KeyWaitReplays
  intro x s hs hi hreleased
  have hexec : exec (.ldVxK x) s.advancePc = .next s.advancePc.replayPc := execLdVxK_released x hreleased
  have hpc : s.pc + 2#16 - 2#16 = s.pc := BitVec.add_sub_cancel _ _
  exact ⟨_, step_of_exec_next hs hi hexec, tick_toNat s.dt, tick_toNat s.st,
    frame_timers_of_pc_eq (frame_step (frame_replayPc s.advancePc)) hpc⟩

/-- Settles O52: each step is the handler's one write on the advanced state, and then both timers count from what it left. -/
theorem timerAccessSteps : Obligations.TimerAccessSteps := by
  unfold Obligations.TimerAccessSteps
  intro x s hs
  have hpc := toNat_advancePc_pc hs.2
  refine ⟨fun hi => ?_, fun hi => ?_, fun hi => ?_⟩
  · exact ⟨_, step_of_exec_next hs hi (execLdVxDt_eq x _), State.setReg_reg_same _ x _, tick_toNat s.dt,
      tick_toNat s.st, hpc, frame_step (frame_setReg s.advancePc x _)⟩
  · exact ⟨_, step_of_exec_next hs hi (execLdDtVx_eq x _), tick_toNat (s.reg x), tick_toNat s.st, hpc,
      frame_step (frame_setDt s.advancePc _)⟩
  · exact ⟨_, step_of_exec_next hs hi (execLdStVx_eq x _), tick_toNat (s.reg x), tick_toNat s.dt, hpc,
      frame_step (frame_setSt s.advancePc _)⟩

end Sys2Proof
end

section
/-! SUPPORT. The summary table of 10_state.md: what each instruction may write, and that no handler writes more. -/

namespace Sys2Proof

open Sys2Proof.Machine Sys2Proof.Safety Sys2Proof.Certificates

/-! ### The table -/

/-- What the handler of an instruction may write in the state it sees. -/
def instrWrites (s : State) : Instr → Writes
  | .cls => { fb := true }
  | .ret | .call _ => { pc := true, stack := true }
  | .jp _ | .jpV0 _ | .seImm _ _ | .sneImm _ _ | .seReg _ _ | .sneReg _ _ | .skp _ | .sknp _ => { pc := true }
  | .ldImm x _ | .addImm x _ | .ldReg x _ | .or x _ | .and x _ | .xor x _ | .ldVxDt x => { regs := [x] }
  | .addReg x _ | .sub x _ | .shr x _ | .subn x _ | .shl x _ => { regs := [x, VF] }
  | .ldI _ | .addI _ | .ldF _ => { i := true }
  | .rnd x _ => { regs := [x], draws := true }
  | .drw _ _ _ => { regs := [VF], fb := true }
  | .ldVxK x => { regs := [x], pc := true }
  | .ldDtVx _ => { dt := true }
  | .ldStVx _ => { st := true }
  | .ldB _ => { memBase := s.base, memLen := 3 }
  | .stRegs x => { memBase := s.base, memLen := x.val + 1 }
  | .ldRegs x => { regs := (List.finRange 16).filter (· ≤ x) }

theorem frame_next {w : Writes} {s t u : State} (hframe : Frame w s u) (h : (.next u : Result) = .next t) :
    Frame w s t :=
  Host.Outcome.next.inj h ▸ hframe

theorem frame_execLdVxK {x : Reg} {s t : State} (h : execLdVxK x s = .next t) :
    Frame { regs := [x], pc := true } s t := by
  obtain ⟨k, -, rfl⟩ | ⟨-, rfl⟩ := execLdVxK_completed h
  · simp +contextual [Frame]
  · simp [Frame]

theorem frame_execLdRegs {x : Reg} {s t : State} (h : execLdRegs x s = .next t) :
    Frame { regs := (List.finRange 16).filter (· ≤ x) } s t := by
  obtain ⟨-, rfl⟩ := completed_of_cases (execLdRegs_cases x s) h
  refine frame_loadRegs s _ _ fun r hr => ?_
  rw [Memory.length_readBytes] at hr
  simpa using Fin.le_def.2 (Nat.le_of_lt_succ hr)

/-- No handler writes more than the table says. -/
theorem exec_frame {i : Instr} {s t : State} (h : exec i s = .next t) : Frame (instrWrites s i) s t := by
  cases i with
  | cls => exact frame_next (frame_setFb s _) h
  | ret =>
    obtain ⟨-, rfl⟩ := execRet_completed h
    exact frame_pc_stack s _ _ _
  | call nnn =>
    obtain ⟨-, rfl⟩ := execCall_completed h
    exact frame_pc_stack s _ _ _
  | drw x y n =>
    obtain ⟨-, rfl⟩ := completed_of_cases (execDrw_cases x y n s) h
    exact frame_afterDraw x y n s
  | ldB x =>
    obtain ⟨-, rfl⟩ := completed_of_cases (execLdB_cases x s) h
    exact frame_writeBytes s s.base (decimalDigits (s.reg x))
  | stRegs x =>
    obtain ⟨-, rfl⟩ := completed_of_cases (execStRegs_cases x s) h
    exact frame_stRegs x s
  | ldRegs x => exact frame_execLdRegs h
  | ldVxK x => exact frame_execLdVxK h
  | jp nnn => exact frame_next (frame_setPc s _) h
  | jpV0 nnn => exact frame_next (frame_setPc s _) h
  | seImm x kk => exact frame_next (frame_skipIf s _) h
  | sneImm x kk => exact frame_next (frame_skipIf s _) h
  | seReg x y => exact frame_next (frame_skipIf s _) h
  | sneReg x y => exact frame_next (frame_skipIf s _) h
  | skp x => exact frame_next (frame_skipIf s _) h
  | sknp x => exact frame_next (frame_skipIf s _) h
  | ldImm x kk => exact frame_next (frame_setReg s x _) h
  | addImm x kk => exact frame_next (frame_setReg s x _) h
  | ldReg x y => exact frame_next (frame_setReg s x _) h
  | or x y => exact frame_next (frame_setReg s x _) h
  | and x y => exact frame_next (frame_setReg s x _) h
  | xor x y => exact frame_next (frame_setReg s x _) h
  | ldVxDt x => exact frame_next (frame_setReg s x _) h
  | addReg x y => exact frame_next (frame_writeResultFlag s x _ _) h
  | sub x y => exact frame_next (frame_writeResultFlag s x _ _) h
  | shr x y => exact frame_next (frame_writeResultFlag s x _ _) h
  | subn x y => exact frame_next (frame_writeResultFlag s x _ _) h
  | shl x y => exact frame_next (frame_writeResultFlag s x _ _) h
  | rnd x kk => exact frame_next (frame_drawByte_setReg s x _) h
  | ldI nnn => exact frame_next (frame_setI s _) h
  | addI x => exact frame_next (frame_setI s _) h
  | ldF x => exact frame_next (frame_setI s _) h
  | ldDtVx x => exact frame_next (frame_setDt s _) h
  | ldStVx x => exact frame_next (frame_setSt s _) h

/-! ### Who writes what -/

theorem instrWrites_i {i : Instr} {s : State} (h : (instrWrites s i).i ≠ false) :
    (∃ nnn, i = .ldI nnn) ∨ (∃ x, i = .addI x) ∨ (∃ x, i = .ldF x) := by
  cases i <;> simp_all [instrWrites]

theorem instrWrites_pc {i : Instr} {s : State} (h : (instrWrites s i).pc ≠ false) : WritesPc i := by
  cases i <;> simp_all [instrWrites, WritesPc]

theorem instrWrites_stack {i : Instr} {s : State} (h : (instrWrites s i).stack ≠ false) :
    i = .ret ∨ ∃ nnn, i = .call nnn := by
  cases i <;> simp_all [instrWrites]

theorem instrWrites_dt {i : Instr} {s : State} (h : (instrWrites s i).dt ≠ false) : ∃ x, i = .ldDtVx x := by
  cases i <;> simp_all [instrWrites]

theorem instrWrites_st {i : Instr} {s : State} (h : (instrWrites s i).st ≠ false) : ∃ x, i = .ldStVx x := by
  cases i <;> simp_all [instrWrites]

theorem instrWrites_fb {i : Instr} {s : State} (h : (instrWrites s i).fb ≠ false) :
    i = .cls ∨ ∃ x y n, i = .drw x y n := by
  cases i <;> simp_all [instrWrites]

theorem instrWrites_draws {i : Instr} {s : State} (h : (instrWrites s i).draws ≠ false) : ∃ x kk, i = .rnd x kk := by
  cases i <;> simp_all [instrWrites]

theorem instrWrites_memLen {i : Instr} {s : State} (h : (instrWrites s i).memLen ≠ 0) :
    (∃ x, i = .ldB x) ∨ (∃ x, i = .stRegs x) := by
  cases i <;> simp_all [instrWrites]

theorem instrWrites_VF {i : Instr} {s : State} (h : 15 ∈ (instrWrites s i).regs) : WritesVf i := by
  cases i <;> simp_all [instrWrites, WritesVf]
  case ldRegs x => exact le_antisymm (Fin.le_last x) h

/-- Settles O24: what a handler changed the table names, field by field. -/
theorem onlyNamedInstructionsWrite : Obligations.OnlyNamedInstructionsWrite := by
  unfold Obligations.OnlyNamedInstructionsWrite
  intro i s t h
  obtain ⟨-, hi, hpc, hstack, hdt, hst, hfb, hmem, hdraws, hkeys, hfault⟩ := exec_frame h
  have hstack' : t.stack ≠ s.stack ∨ t.sp ≠ s.sp → i = .ret ∨ ∃ nnn, i = .call nnn := fun hne =>
    instrWrites_stack (mt hstack (not_and_or.2 hne))
  have hmem' : ∀ a, t.mem.read a ≠ s.mem.read a → (∃ x, i = .ldB x) ∨ (∃ x, i = .stRegs x) := fun a hne =>
    instrWrites_memLen (s := s) fun hlen => hne (hmem a (by omega))
  exact ⟨fun hne => instrWrites_i (mt hi hne), fun hne => instrWrites_pc (mt hpc hne), hstack',
    fun hne => instrWrites_dt (mt hdt hne), fun hne => instrWrites_st (mt hst hne),
    fun hne => instrWrites_fb (mt hfb hne), hmem', fun hne => instrWrites_draws (mt hdraws hne), hkeys, hfault⟩

/-! ### The flag (R21) -/

theorem writeResultFlag_VF_zero_or_one (s : State) (x : Reg) (result : Byte) (flag : Bool) :
    (s.writeResultFlag x result flag).reg 15 = 0#8 ∨ (s.writeResultFlag x result flag).reg 15 = 1#8 := by
  rw [writeResultFlag_reg_VF]
  cases flag
  · exact .inl rfl
  · exact .inr rfl

/-- Settles O23: by the table only the instructions listed reach `VF`, and a flag writer writes a flag byte there last. -/
theorem vfWritersOnly : Obligations.VfWritersOnly := by
  unfold Obligations.VfWritersOnly
  intro i s t h
  obtain ⟨hreg, -⟩ := exec_frame h
  refine ⟨fun hne => instrWrites_VF (not_not.1 (mt (hreg 15) hne)), ?_⟩
  rintro x y n (rfl | rfl | rfl | rfl | rfl | rfl)
  case inr.inr.inr.inr.inr =>
    obtain ⟨-, rfl⟩ := completed_of_cases (execDrw_cases x y n s) h
    obtain ⟨hhit, hmiss⟩ := afterDraw_VF x y n s
    exact (em (SpriteHits x y n s)).symm.imp hmiss hhit
  all_goals
    obtain rfl := Host.Outcome.next.inj h
    exact writeResultFlag_VF_zero_or_one s x _ _

/-! ### The timers of a step (R106) -/

/-- A step that completes ran a handler that completed, or the no-op, on the advanced state. -/
theorem step_next_instrAtPc {s t : State} (h : step s = .next t) : CanFetch s ∧ ∃ u, t = u.tickTimers ∧
    ((∃ i, instrAtPc s = some i ∧ exec i s.advancePc = .next u) ∨ (instrAtPc s = none ∧ u = s.advancePc)) := by
  obtain ⟨hfault, hpc, w, u, hfetch, ht, hrun⟩ := step_next_cases h
  obtain rfl : wordAtPc s = w := Except.ok.inj ((fetch_eq_wordAtPc hpc).symm.trans hfetch)
  exact ⟨⟨hfault, hpc⟩, u, ht, hrun⟩

/-- Settles O12: both timers are ticked from what the handler left, which by the table is the old value but for the one
instruction that writes the timer. -/
theorem timersCountInEveryStep : Obligations.TimersCountInEveryStep := by
  unfold Obligations.TimersCountInEveryStep
  intro s t h
  obtain ⟨-, u, rfl, ⟨i, hi, hexec⟩ | ⟨hi, rfl⟩⟩ := step_next_instrAtPc h
  · obtain ⟨-, -, -, hdt, hst, -⟩ := onlyNamedInstructionsWrite i _ _ hexec
    simp only [State.tickTimers_dt, State.tickTimers_st, tick_toNat, hi]
    refine ⟨fun hno => ?_, fun hno => ?_, ?_, ?_⟩
    · obtain heq : u.dt = s.dt := not_not.1 (mt hdt fun ⟨x, hx⟩ => hno x (congrArg some hx))
      rw [heq]
    · obtain heq : u.st = s.st := not_not.1 (mt hst fun ⟨x, hx⟩ => hno x (congrArg some hx))
      rw [heq]
    · rintro x ⟨⟩
      obtain rfl := Host.Outcome.next.inj hexec
      rfl
    · rintro x ⟨⟩
      obtain rfl := Host.Outcome.next.inj hexec
      rfl
  · simp [hi, tick_toNat]

end Sys2Proof
end

section
/-! SUPPORT. What no handler reads: the sound timer, and but for three instructions the key inputs (R25, R26). A core that
differs in these alone runs every other instruction to the same outcome, these apart. -/

namespace Sys2Proof

open Sys2Proof.Machine Sys2Proof.Safety Sys2Proof.Certificates

/-! ### Another view of the keys and the sound timer -/

/-- The core with other key inputs and another sound timer. -/
def overlay (f : Vector Bool 16 → Vector Bool 16) (g : Byte → Byte) (s : State) : State :=
  { s with keys := f s.keys, st := g s.st }

/-- A result with its next state, if it has one, changed. -/
def mapNext (f : State → State) : Result → Result
  | .next t => .next (f t)
  | .fault k => .fault k
  | .refused r => .refused r

section
variable (f : Vector Bool 16 → Vector Bool 16) (g : Byte → Byte) (s : State)

theorem skipIf_overlay (c : Bool) : (overlay f g s).skipIf c = overlay f g (s.skipIf c) := by
  cases c <;> rfl

theorem writeRange_overlay (a : Nat) (bs : List Byte) :
    (overlay f g s).writeRange a bs = (s.writeRange a bs).map (overlay f g) := by
  unfold State.writeRange
  split <;> rfl

theorem execRet_overlay : execRet (overlay f g s) = mapNext (overlay f g) (execRet s) := by
  by_cases h : 0 < s.sp.val <;> simp [execRet, State.pop, overlay, h, mapNext, raise, State.setPc]

theorem execCall_overlay (nnn : Addr) :
    execCall nnn (overlay f g s) = mapNext (overlay f g) (execCall nnn s) := by
  by_cases h : s.sp.val < 16 <;> simp [execCall, State.push, overlay, h, mapNext, raise, State.setPc]

theorem execDrw_overlay (x y : Reg) (n : Nat) :
    execDrw x y n (overlay f g s) = mapNext (overlay f g) (execDrw x y n s) := by
  have hread : (overlay f g s).readRange (overlay f g s).base n = s.readRange s.base n := rfl
  rw [execDrw, execDrw, hread]
  cases s.readRange s.base n <;> rfl

theorem execLdRegs_overlay (x : Reg) :
    execLdRegs x (overlay f g s) = mapNext (overlay f g) (execLdRegs x s) := by
  have hread : (overlay f g s).readRange (overlay f g s).base (x.val + 1) = s.readRange s.base (x.val + 1) := rfl
  rw [execLdRegs, execLdRegs, hread]
  cases s.readRange s.base (x.val + 1) <;> rfl

theorem execLdB_overlay (x : Reg) : execLdB x (overlay f g s) = mapNext (overlay f g) (execLdB x s) := by
  have hbytes : decimalDigits ((overlay f g s).reg x) = decimalDigits (s.reg x) := rfl
  have hbase : (overlay f g s).base = s.base := rfl
  rw [execLdB, execLdB, hbytes, hbase, writeRange_overlay]
  cases s.writeRange s.base (decimalDigits (s.reg x)) <;> rfl

theorem execStRegs_overlay (x : Reg) :
    execStRegs x (overlay f g s) = mapNext (overlay f g) (execStRegs x s) := by
  have hbytes : (overlay f g s).regsUpTo x = s.regsUpTo x := rfl
  have hbase : (overlay f g s).base = s.base := rfl
  rw [execStRegs, execStRegs, hbytes, hbase, writeRange_overlay]
  cases s.writeRange s.base (s.regsUpTo x) <;> rfl

/-- An instruction that does not read the keys, or sees them unchanged, and does not write the sound timer, or leaves it to
`g` unchanged, has the same outcome under the overlay. -/
theorem exec_overlay (i : Instr) (hf : ReadsKeys i → f = id) (hg : ∀ x, i = .ldStVx x → g = id) :
    exec i (overlay f g s) = mapNext (overlay f g) (exec i s) := by
  cases i with
  | ret => exact execRet_overlay f g s
  | call nnn => exact execCall_overlay f g s nnn
  | drw x y n => exact execDrw_overlay f g s x y n
  | ldB x => exact execLdB_overlay f g s x
  | stRegs x => exact execStRegs_overlay f g s x
  | ldRegs x => exact execLdRegs_overlay f g s x
  | seImm x kk => exact congrArg _ (skipIf_overlay f g s _)
  | sneImm x kk => exact congrArg _ (skipIf_overlay f g s _)
  | seReg x y => exact congrArg _ (skipIf_overlay f g s _)
  | sneReg x y => exact congrArg _ (skipIf_overlay f g s _)
  | skp x =>
    obtain rfl := hf trivial
    exact congrArg _ (skipIf_overlay id g s _)
  | sknp x =>
    obtain rfl := hf trivial
    exact congrArg _ (skipIf_overlay id g s _)
  | ldVxK x =>
    obtain rfl := hf trivial
    have hleast : (overlay id g s).leastKey = s.leastKey := rfl
    show execLdVxK x _ = mapNext _ (execLdVxK x s)
    rw [execLdVxK, execLdVxK, hleast]
    cases s.leastKey <;> rfl
  | ldStVx x =>
    obtain rfl := hg x rfl
    rfl
  | _ => rfl

end

/-- Settles O22: two runs on the same state but for the keys. -/
theorem onlyKeyInstructionsReadKeys : Obligations.OnlyKeyInstructionsReadKeys := by
  unfold Obligations.OnlyKeyInstructionsReadKeys
  intro i s keys hi
  have h : exec i { s with keys := keys } = mapNext (overlay (fun _ => keys) id) (exec i s) :=
    exec_overlay (fun _ => keys) id s i (fun hreads => absurd hreads hi) (fun _ _ => rfl)
  constructor
  · intro t ht
    rw [h, ht]
    rfl
  · intro k hk
    rw [h, hk]
    rfl

/-! ### The sound timer -/

/-- With another sound timer a handler has the same outcome, but for the sound timer. -/
theorem exec_setSt (i : Instr) (s : State) (b : Byte) :
    ∃ c, exec i (s.setSt b) = mapNext (fun t => t.setSt c) (exec i s) := by
  by_cases hi : ∃ x, i = .ldStVx x
  · obtain ⟨x, rfl⟩ := hi
    exact ⟨s.reg x, rfl⟩
  · exact ⟨b, exec_overlay id (fun _ => b) s i (fun _ => rfl) (fun x hx => absurd ⟨x, hx⟩ hi)⟩

theorem finishStep_mapNext_setSt (r : Result) (c : Byte) :
    finishStep (mapNext (fun t => t.setSt c) r) = mapNext (fun t => t.setSt (tick c)) (finishStep r) := by
  cases r <;> rfl

/-- With another sound timer a step has the same outcome, but for the sound timer. -/
theorem step_setSt (s : State) (b : Byte) :
    ∃ c, step (s.setSt b) = mapNext (fun t => t.setSt c) (step s) := by
  cases hf : s.fault with
  | some k =>
    have hf' : (s.setSt b).fault = some k := hf
    exact ⟨b, by rw [step_of_latched hf, step_of_latched hf']; rfl⟩
  | none =>
    have hf' : (s.setSt b).fault = none := hf
    obtain hs | hpc := canFetch_or_out_of_range hf
    · have hs' : CanFetch (s.setSt b) := hs
      cases hi : instrAtPc s with
      | none =>
        have hi' : instrAtPc (s.setSt b) = none := hi
        exact ⟨tick b, by rw [step_of_instrAtPc_none hs hi, step_of_instrAtPc_none hs' hi']; rfl⟩
      | some i =>
        have hi' : instrAtPc (s.setSt b) = some i := hi
        obtain ⟨c, hc⟩ := exec_setSt i s.advancePc b
        refine ⟨tick c, ?_⟩
        rw [step_of_instrAtPc hs hi, step_of_instrAtPc hs' hi', ← finishStep_mapNext_setSt, ← hc]
        rfl
    · have hpc' : 4095 ≤ (s.setSt b).pc.toNat := hpc
      exact ⟨b, by rw [step_of_fetch_out_of_range hf hpc, step_of_fetch_out_of_range hf' hpc']; rfl⟩

/-- Settles O21: two runs on the same state but for the sound timer. -/
theorem soundTimerIsUnread : Obligations.SoundTimerIsUnread := by
  unfold Obligations.SoundTimerIsUnread
  intro s b
  obtain ⟨c, hc⟩ := step_setSt s b
  constructor
  · intro t ht
    rw [ht] at hc
    exact ⟨c, hc⟩
  · intro k hk
    rw [hk] at hc
    exact hc

end Sys2Proof
end

section
/-! SUPPORT. Reset and load (R34, R66, R260): what the state after reset holds, what a loaded image leaves in memory, and what
the fault latch does under the moves of the host. -/

namespace Sys2Proof

open Sys2Proof.Machine Sys2Proof.Safety

/-! ### Reset -/

/-- Settles O13: every field is a literal of the reset state, and its memory lists no byte, so each reads as its reset
content. -/
theorem resetState : Obligations.ResetState := by
  unfold Obligations.ResetState
  refine ⟨fun r => ?_, rfl, rfl, rfl, fun k => ?_, rfl, rfl, Framebuffer.pixel_blank, fun k => ?_, rfl,
    fun a ha => ?_, fun j hj => ?_⟩
  · simp [State.reset, State.reg]
  · simp [State.reset]
  · simp [State.reset, State.key]
  · exact if_neg (by omega)
  · have hfont : 0x050 ≤ 0x050 + j ∧ 0x050 + j ≤ 0x09F := by omega
    exact (if_pos hfont).trans (by rw [Nat.add_sub_cancel_left])

/-! ### Load -/

/-- Settles O15: the image is a block of bytes written at 0x200. -/
theorem loadWritesImage : Obligations.LoadWritesImage := by
  unfold Obligations.LoadWritesImage
  intro s bytes hfits
  obtain ⟨hlong, -⟩ | ⟨-, hload⟩ := load_cases s bytes
  · omega
  · refine ⟨_, hload, fun k hk => ?_, frame_writeBytes s 0x200 bytes⟩
    rw [State.setMem_mem, read_writeBytes_offset _ _ _ _ hk, List.getD_eq_getElem _ _ hk]

/-- Settles O14: after reset `pc` is 0x200, where the image's first two bytes are. -/
theorem launchFetchesFirstWord : Obligations.LaunchFetchesFirstWord := by
  unfold Obligations.LaunchFetchesFirstWord
  intro hi lo rest s hlaunch
  obtain ⟨-, hload⟩ | ⟨-, hload⟩ := load_cases State.reset (hi :: lo :: rest)
  · nomatch hload.symm.trans hlaunch
  · obtain rfl := LoadResult.ok.inj (hload.symm.trans hlaunch)
    have hread := read_writeBytes_offset State.reset.mem 0x200 (hi :: lo :: rest)
    have hpc : (0x200#16 : Word).toNat ≤ 4094 := by decide
    refine ⟨⟨rfl, hpc⟩, rfl, _, fetch_eq_wordAtPc hpc, ?_⟩
    rw [wordAtPc, toNat_wordOfBytes]
    exact congrArg₂ (fun a b : Byte => a.toNat * 256 + b.toNat) (hread 0 (by simp)) (hread 1 (by simp))

theorem fault_of_load {s t : State} {bytes : List Byte} (h : s.load bytes = .ok t) : t.fault = s.fault := by
  obtain ⟨-, hload⟩ | ⟨-, hload⟩ := load_cases s bytes
  · nomatch hload.symm.trans h
  · obtain rfl := LoadResult.ok.inj (hload.symm.trans h)
    rfl

/-! ### The latch -/

/-- Settles O17: each move of the host from a latched core. -/
theorem latchHoldsUntilReset : Obligations.LatchHoldsUntilReset := by
  unfold Obligations.LatchHoldsUntilReset
  intro s t m k hk htrans
  have hstep := step_of_latched hk
  cases htrans with
  | reset => exact ⟨fun _ => rfl, fun hne => absurd rfl hne, nofun⟩
  | load bytes _ hload => exact ⟨nofun, fun _ => (fault_of_load hload).trans hk, nofun⟩
  | loadTooLarge bytes _ => exact ⟨nofun, fun _ => hk, nofun⟩
  | setKeys keys => exact ⟨nofun, fun _ => hk, nofun⟩
  | stepNext _ hnext => nomatch hstep.symm.trans hnext
  | stepFaults _ _ hrunning => nomatch hrunning.symm.trans hk
  | stepLatched => exact ⟨nofun, fun _ => hk, fun _ => ⟨rfl, hstep⟩⟩

end Sys2Proof
end

section
/-! SUPPORT. The invariant of the running core (R128): memory in canonical form, `pc` at most 4350, stack entries at most 4096.
A handler sees `pc` advanced, so from 2 to 4096, and each keeps the three parts for its own reason. -/

namespace Sys2Proof

open Sys2Proof.Machine Sys2Proof.Safety Sys2Proof.Certificates

/-! ### Memory -/

/-- The two instructions that store keep the canonical form, since the range check admits existing addresses only. -/
theorem exec_keeps_mem_wf {i : Instr} {s t : State} (h : exec i s = .next t) (hwf : s.mem.wf) : t.mem.wf := by
  cases i with
  | ldB x =>
    obtain ⟨hrange, rfl⟩ := completed_of_cases (execLdB_cases x s) h
    exact Memory.wf_writeBytes _ _ _ hwf hrange
  | stRegs x =>
    obtain ⟨hrange, rfl⟩ := completed_of_cases (execStRegs_cases x s) h
    refine Memory.wf_writeBytes _ _ _ hwf ?_
    rwa [State.length_regsUpTo]
  | ret =>
    obtain ⟨-, rfl⟩ := execRet_completed h
    exact hwf
  | call nnn =>
    obtain ⟨-, rfl⟩ := execCall_completed h
    exact hwf
  | drw x y n =>
    obtain ⟨-, rfl⟩ := completed_of_cases (execDrw_cases x y n s) h
    exact hwf
  | ldRegs x =>
    obtain ⟨-, rfl⟩ := completed_of_cases (execLdRegs_cases x s) h
    exact hwf
  | ldVxK x => obtain ⟨_, -, rfl⟩ | ⟨-, rfl⟩ := execLdVxK_completed h <;> exact hwf
  | seImm | sneImm | seReg | sneReg | skp | sknp =>
    obtain rfl := Host.Outcome.next.inj h
    rwa [State.skipIf_mem]
  | _ =>
    obtain rfl := Host.Outcome.next.inj h
    exact hwf

/-! ### The stack -/

/-- Only CALL writes an entry: RET uncounts one and leaves it as it is (D29, log 22). -/
theorem exec_stack_eq {i : Instr} {s t : State} (h : exec i s = .next t) (hi : ∀ nnn, i ≠ .call nnn) :
    t.stack = s.stack := by
  by_contra hne
  obtain ⟨-, -, hstack, -⟩ := onlyNamedInstructionsWrite i s t h
  obtain rfl | ⟨nnn, rfl⟩ := hstack (.inl hne)
  · obtain ⟨_, rfl⟩ := execRet_completed h
    exact hne rfl
  · exact hi nnn rfl

/-- The entry that CALL writes is the advanced `pc` (R122). -/
theorem exec_keeps_stack_bound {i : Instr} {s t : State} (h : exec i s = .next t) (hpc : s.pc.toNat ≤ 4096)
    (hstack : ∀ k : Fin 16, (s.stack[k.val]).toNat ≤ 4096) (k : Fin 16) : (t.stack[k.val]).toNat ≤ 4096 := by
  by_cases hcall : ∃ nnn, i = .call nnn
  · obtain ⟨nnn, rfl⟩ := hcall
    obtain ⟨-, rfl⟩ := execCall_completed h
    simp only [Vector.getElem_set]
    split
    · exact hpc
    · exact hstack k
  · simpa only [exec_stack_eq h fun nnn hi => hcall ⟨nnn, hi⟩] using hstack k

/-! ### `pc` -/

theorem absAddr_le (nnn : Addr) : (absAddr nnn).toNat ≤ 4095 := by
  rw [toNat_absAddr]
  omega

theorem skipIf_pc_le {s : State} (hpc : s.pc.toNat ≤ 4096) (c : Bool) : (s.skipIf c).pc.toNat ≤ 4350 := by
  rw [toNat_skipIf_pc s (Iff.rfl : c = true ↔ c = true)]
  split <;> omega

theorem skip_pc_le {s t : State} {c : Bool} (hpc : s.pc.toNat ≤ 4096) (h : (.next (s.skipIf c) : Result) = .next t) :
    t.pc.toNat ≤ 4350 :=
  Host.Outcome.next.inj h ▸ skipIf_pc_le hpc c

/-- The replay takes back the advance, so it does not wrap below 0. -/
theorem replayPc_pc_le {s : State} (hlow : 2 ≤ s.pc.toNat) (hhigh : s.pc.toNat ≤ 4096) :
    s.replayPc.pc.toNat ≤ 4350 := by
  rw [State.replayPc_pc, BitVec.toNat_sub, BitVec.toNat_ofNat]
  omega

/-- The bound 4350 is that of JP_V0, 255 + 4095 (R127); a skip reaches 4098, a return a stack entry, a jump 4095. -/
theorem exec_pc_le {i : Instr} {s t : State} (h : exec i s = .next t) (hlow : 2 ≤ s.pc.toNat)
    (hhigh : s.pc.toNat ≤ 4096) (hstack : ∀ k : Fin 16, (s.stack[k.val]).toNat ≤ 4096) : t.pc.toNat ≤ 4350 := by
  by_cases hwrites : WritesPc i
  · cases i with
    | ret =>
      obtain ⟨hsp, rfl⟩ := execRet_completed h
      exact (hstack ⟨s.sp.val - 1, by omega⟩).trans (by decide)
    | call nnn =>
      obtain ⟨-, rfl⟩ := execCall_completed h
      exact (absAddr_le nnn).trans (by decide)
    | jp nnn =>
      obtain rfl := Host.Outcome.next.inj h
      exact (absAddr_le nnn).trans (by decide)
    | jpV0 nnn =>
      obtain ⟨u, hu, hpc, -⟩ := computedJumpAddsV0 nnn s
      obtain rfl := Host.Outcome.next.inj (hu.symm.trans h)
      rw [hpc]
      omega
    | ldVxK x =>
      obtain ⟨k, -, rfl⟩ | ⟨-, rfl⟩ := execLdVxK_completed h
      · exact hhigh.trans (by decide)
      · exact replayPc_pc_le hlow hhigh
    | seImm x kk => exact skip_pc_le hhigh h
    | sneImm x kk => exact skip_pc_le hhigh h
    | seReg x y => exact skip_pc_le hhigh h
    | sneReg x y => exact skip_pc_le hhigh h
    | skp x => exact skip_pc_le hhigh h
    | sknp x => exact skip_pc_le hhigh h
    | _ => exact hwrites.elim
  · obtain ⟨-, hpc, -⟩ := onlyNamedInstructionsWrite i s t h
    rw [not_not.1 (mt hpc hwrites)]
    omega

/-! ### The step and the moves of the host -/

/-- Settles O18: the advance leaves `pc` from 2 to 4096, the handler keeps each part of the invariant, and the timer phase
touches none. -/
theorem stepKeepsInvariant : Obligations.StepKeepsInvariant := by
  unfold Obligations.StepKeepsInvariant
  intro s t ⟨hwf, hrunning⟩ h
  obtain ⟨⟨hf, hpc⟩, u, rfl, ⟨i, -, hexec⟩ | ⟨-, rfl⟩⟩ := step_next_instrAtPc h
  all_goals
    obtain ⟨-, hstack⟩ := hrunning hf
    have hadvance := toNat_advancePc_pc hpc
  · have hlow : 2 ≤ s.advancePc.pc.toNat := by omega
    have hhigh : s.advancePc.pc.toNat ≤ 4096 := by omega
    have hpc' : u.pc.toNat ≤ 4350 := exec_pc_le hexec hlow hhigh hstack
    have hstack' : ∀ k : Fin 16, (u.stack[k.val]).toNat ≤ 4096 := exec_keeps_stack_bound hexec hhigh hstack
    have hwf' : u.mem.wf := exec_keeps_mem_wf hexec hwf
    exact ⟨hwf', fun _ => ⟨hpc', hstack'⟩⟩
  · have hhigh : s.advancePc.pc.toNat ≤ 4350 := by omega
    exact ⟨hwf, fun _ => ⟨hhigh, hstack⟩⟩

/-- Settles O20: memory lists nothing, `pc` is 0x200 and every stack entry is 0. -/
theorem resetMeetsInvariant : Obligations.ResetMeetsInvariant := by
  unfold Obligations.ResetMeetsInvariant
  exact ⟨Memory.wf_nil, fun _ => ⟨by decide, by decide⟩⟩

theorem load_keeps_inv {s t : State} {bytes : List Byte} (h : s.load bytes = .ok t) (hinv : Inv s) : Inv t := by
  obtain ⟨hwf, hrunning⟩ := hinv
  obtain ⟨-, hload⟩ | ⟨hfits, hload⟩ := load_cases s bytes
  · nomatch hload.symm.trans h
  · obtain rfl := LoadResult.ok.inj (hload.symm.trans h)
    exact ⟨Memory.wf_writeBytes _ _ _ hwf (by omega), hrunning⟩

/-- Settles O19: of a latched core the invariant asks the form of memory only, and that the move of a faulting step gives. -/
theorem hostMovesKeepInvariant : Obligations.HostMovesKeepInvariant := by
  unfold Obligations.HostMovesKeepInvariant
  intro s t m hinv htrans
  cases htrans with
  | reset => exact resetMeetsInvariant
  | load bytes _ hload => exact load_keeps_inv hload hinv
  | loadTooLarge bytes _ => exact hinv
  | setKeys keys => exact hinv
  | stepNext _ hnext => exact stepKeepsInvariant s t hinv hnext
  | stepFaults _ k hrunning hfault hlatched hform hkeys =>
    exact ⟨hform, fun hnone => nomatch hlatched.symm.trans hnone⟩
  | stepLatched k hk => exact hinv

end Sys2Proof
end
